-- ==== Sys2Proof/Config.lean ====
section
/-! DEFINITION. The sizes of the core (00_scope.md R5) that the source document fixes.
The parameters of R5 that are rules (OPMAP, SUB_CARRY, IMM_EXTEND, ...) carry the same prefix `Config`
and stand in Decode.lean and under Machine/, beside the rule each one parameterises. The core leaves no value
free, so there is no opaque constant. -/

namespace Sys2Proof.Config

/-- WORD_BITS: the width of every stored value (R5, R6). -/
abbrev wordBits : Nat := 16

/-- OPCODE_BITS: the width of the opcode field, IR bits 15..8 (R5, 30_encoding.md R91). -/
abbrev opcodeBits : Nat := 8

/-- OPERAND_BITS: the width of the operand field, IR bits 7..0 (R5, 30_encoding.md R91). -/
abbrev operandBits : Nat := 8

/-- NUM_GPR: the number of general registers, GPA and GPB (R5, 10_state.md R22). -/
abbrev numGpr : Nat := 2

/-- NUM_FLAGS: the number of flags, carry, zero, negative and overflow (R5, 10_state.md R30). -/
abbrev numFlags : Nat := 4

/-- MEM_SLOTS: the number of memory slots (R5, 10_state.md R37). -/
abbrev memSlots : Nat := 256

/-- PC_WRAP: the value at which the PC increment wraps to 0 (R5, 10_state.md R24). -/
abbrev pcWrap : Nat := 256

/-- The greatest signed value of a Word, i16::MAX (40_alu.md R135). -/
abbrev i16Max : Int := 32767

/-- The least signed value of a Word, i16::MIN (40_alu.md R135). -/
abbrev i16Min : Int := -32768

/-- The greatest unsigned value of a Word, u16::MAX (40_alu.md R134). -/
abbrev u16Max : Nat := 65535

end Sys2Proof.Config
end

