-- ==== Sys2Proof/Word.lean ====
section
/-! DEFINITION. The Word of the CPU_online core and its byte (00_scope.md R6, R14; 10_state.md R21). -/

namespace Sys2Proof

/-- A Word: a vector of WORD_BITS bits. Its unsigned view u(w) is `w.toNat`, its signed view s(w) is `w.toInt` (R6).
The width stands here as a numeral, which arithmetic on Words is decided with; Laws/Config.lean holds it to
`Config.wordBits`. -/
abbrev Word := BitVec 16

/-- One of the two bytes of an encoded instruction: a vector of OPCODE_BITS, and of OPERAND_BITS, bits
(30_encoding.md R91). -/
abbrev Byte := BitVec 8

/-- trunc16(n): the Word whose unsigned value is n mod 65536, for any integer n (R6). -/
abbrev trunc16 (n : Int) : Word := BitVec.ofInt Config.wordBits n

end Sys2Proof
end

