-- ==== Sys2Proof/Syntax.lean ====
section
/-! DEFINITION. The 37 instructions of the opcode map (30_encoding.md R96), one constructor a row.
Each instruction is one Word, opcode byte and operand byte (R90, R91). Every constructor carries the operand byte,
also where the hardware ignores it (R97, R98), so that no bit of a Word is lost. -/

namespace Sys2Proof

/-- The instruction set: the rows of spec/opcode_table.json, in its order. -/
inductive Instr where
  /-- `ADD #v,A`, opcode 0x01, R191: `b` is the immediate value. -/
  | addImmA (b : Byte)
  /-- `ADD #v,B`, opcode 0x02, R192: `b` is the immediate value. -/
  | addImmB (b : Byte)
  /-- `ADD a,A`, opcode 0x03, R193: `b` is the address of a memory slot. -/
  | addDirA (b : Byte)
  /-- `ADD a,B`, opcode 0x04, R194: `b` is the address of a memory slot. -/
  | addDirB (b : Byte)
  /-- `ADD B,A`, opcode 0x05, R195: `b` is ignored. -/
  | addBA (b : Byte)
  /-- `ADD A,B`, opcode 0x06, R196: `b` is ignored. -/
  | addAB (b : Byte)
  /-- `SUB #v,A`, opcode 0x07, R197: `b` is the immediate value. -/
  | subImmA (b : Byte)
  /-- `SUB #v,B`, opcode 0x08, R198: `b` is the immediate value. -/
  | subImmB (b : Byte)
  /-- `SUB a,A`, opcode 0x09, R199: `b` is the address of a memory slot. -/
  | subDirA (b : Byte)
  /-- `SUB a,B`, opcode 0x0A, R200: `b` is the address of a memory slot. -/
  | subDirB (b : Byte)
  /-- `SUB B,A`, opcode 0x0B, R201: `b` is ignored. -/
  | subBA (b : Byte)
  /-- `SUB A,B`, opcode 0x0C, R202: `b` is ignored. -/
  | subAB (b : Byte)
  /-- `COMPARE #v,A`, opcode 0x0D, R203: `b` is the immediate value. -/
  | compareImmA (b : Byte)
  /-- `COMPARE #v,B`, opcode 0x0E, R204: `b` is the immediate value. -/
  | compareImmB (b : Byte)
  /-- `COMPARE a,A`, opcode 0x0F, R205: `b` is the address of a memory slot. -/
  | compareDirA (b : Byte)
  /-- `COMPARE a,B`, opcode 0x10, R206: `b` is the address of a memory slot. -/
  | compareDirB (b : Byte)
  /-- `COMPARE B,A`, opcode 0x11, R207: `b` is ignored. -/
  | compareBA (b : Byte)
  /-- `COMPARE A,B`, opcode 0x12, R208: `b` is ignored. -/
  | compareAB (b : Byte)
  /-- `MOVE #v,A`, opcode 0x13, R221: `b` is the immediate value. -/
  | moveImmA (b : Byte)
  /-- `MOVE #v,B`, opcode 0x14, R222: `b` is the immediate value. -/
  | moveImmB (b : Byte)
  /-- `MOVE a,A`, opcode 0x15, R223: `b` is the address of a memory slot. -/
  | moveDirToA (b : Byte)
  /-- `MOVE a,B`, opcode 0x16, R224: `b` is the address of a memory slot. -/
  | moveDirToB (b : Byte)
  /-- `MOVE A,a`, opcode 0x17, R225: `b` is the address of a memory slot. -/
  | moveAToDir (b : Byte)
  /-- `MOVE B,a`, opcode 0x18, R226: `b` is the address of a memory slot. -/
  | moveBToDir (b : Byte)
  /-- `MOVE A,(a)`, opcode 0x19, R227: `b` is the address of the slot that holds the store address. -/
  | moveAToInd (b : Byte)
  /-- `MOVE B,(a)`, opcode 0x1A, R228: `b` is the address of the slot that holds the store address. -/
  | moveBToInd (b : Byte)
  /-- `JMP #t`, opcode 0x1B, R241: `b` is the target slot. -/
  | jmpImm (b : Byte)
  /-- `JMP a`, opcode 0x1C, R242: `b` is the address of a memory slot. -/
  | jmpDir (b : Byte)
  /-- `BCS #t`, opcode 0x1D, R243: `b` is the target slot. -/
  | bcs (b : Byte)
  /-- `BCC #t`, opcode 0x1E, R244: `b` is the target slot. -/
  | bcc (b : Byte)
  /-- `BNS #t`, opcode 0x1F, R245: `b` is the target slot. -/
  | bns (b : Byte)
  /-- `BNC #t`, opcode 0x20, R246: `b` is the target slot. -/
  | bnc (b : Byte)
  /-- `BZS #t`, opcode 0x21, R247: `b` is the target slot. -/
  | bzs (b : Byte)
  /-- `BZC #t`, opcode 0x22, R248: `b` is the target slot. -/
  | bzc (b : Byte)
  /-- `BVS #t`, opcode 0x23, R249: `b` is the target slot. -/
  | bvs (b : Byte)
  /-- `BVC #t`, opcode 0x24, R250: `b` is the target slot. -/
  | bvc (b : Byte)
  /-- `HALT`, opcode 0xFF, R251: `b` is ignored. -/
  | halt (b : Byte)
  deriving DecidableEq, Repr

end Sys2Proof
end

