-- ==== Sys2Proof/Decode.lean ====
section
/-! DEFINITION. Decoding and encoding: the one format OP8 (30_encoding.md R91), the opcode map OPMAP (R96), the
instruction-set table INSTR_TABLE (41_sequencer.md R164), the decoder and, after it, the encoder. -/

namespace Sys2Proof

/-- `IR.opcode`: bits 15..8 of a Word (10_state.md R28, 30_encoding.md R91). -/
def opcodeOf (w : Word) : Byte := w.extractLsb' Config.operandBits Config.opcodeBits

/-- `IR.operand`: bits 7..0 of a Word (10_state.md R28, 30_encoding.md R91). -/
def operandOf (w : Word) : Byte := w.extractLsb' 0 Config.operandBits

/-- The Word with the given opcode and operand bytes: opcode in the high byte (20_memory.md R68, 30_encoding.md R91). -/
def wordOf (op b : Byte) : Word := op ++ b

/-- HALT_OPCODE: the sentinel the run loop tests (00_scope.md R5, 30_encoding.md R98). -/
def Config.haltOpcode : Byte := 0xFF#8

/-- OPMAP: opcode byte and operand byte to instruction; `none` where Execute has no dispatch entry
(30_encoding.md R96, R100; the byte assignment is the spec's decision D1). -/
def Config.opmap (op b : Byte) : Option Instr :=
  match op with
  | 0x01#8 => some (.addImmA b)
  | 0x02#8 => some (.addImmB b)
  | 0x03#8 => some (.addDirA b)
  | 0x04#8 => some (.addDirB b)
  | 0x05#8 => some (.addBA b)
  | 0x06#8 => some (.addAB b)
  | 0x07#8 => some (.subImmA b)
  | 0x08#8 => some (.subImmB b)
  | 0x09#8 => some (.subDirA b)
  | 0x0A#8 => some (.subDirB b)
  | 0x0B#8 => some (.subBA b)
  | 0x0C#8 => some (.subAB b)
  | 0x0D#8 => some (.compareImmA b)
  | 0x0E#8 => some (.compareImmB b)
  | 0x0F#8 => some (.compareDirA b)
  | 0x10#8 => some (.compareDirB b)
  | 0x11#8 => some (.compareBA b)
  | 0x12#8 => some (.compareAB b)
  | 0x13#8 => some (.moveImmA b)
  | 0x14#8 => some (.moveImmB b)
  | 0x15#8 => some (.moveDirToA b)
  | 0x16#8 => some (.moveDirToB b)
  | 0x17#8 => some (.moveAToDir b)
  | 0x18#8 => some (.moveBToDir b)
  | 0x19#8 => some (.moveAToInd b)
  | 0x1A#8 => some (.moveBToInd b)
  | 0x1B#8 => some (.jmpImm b)
  | 0x1C#8 => some (.jmpDir b)
  | 0x1D#8 => some (.bcs b)
  | 0x1E#8 => some (.bcc b)
  | 0x1F#8 => some (.bns b)
  | 0x20#8 => some (.bnc b)
  | 0x21#8 => some (.bzs b)
  | 0x22#8 => some (.bzc b)
  | 0x23#8 => some (.bvs b)
  | 0x24#8 => some (.bvc b)
  | 0xFF#8 => some (.halt b)
  | _ => none

/-- INSTR_TABLE: the opcode bytes that have a table entry, those of OPMAP and nothing else
(41_sequencer.md R164; the spec's decision D15). -/
def Config.instrTable : List Byte :=
  [0x01#8, 0x02#8, 0x03#8, 0x04#8, 0x05#8, 0x06#8] ++
  [0x07#8, 0x08#8, 0x09#8, 0x0A#8, 0x0B#8, 0x0C#8] ++
  [0x0D#8, 0x0E#8, 0x0F#8, 0x10#8, 0x11#8, 0x12#8] ++
  [0x13#8, 0x14#8, 0x15#8, 0x16#8, 0x17#8, 0x18#8] ++
  [0x19#8, 0x1A#8, 0x1B#8, 0x1C#8, 0x1D#8, 0x1E#8] ++
  [0x1F#8, 0x20#8, 0x21#8, 0x22#8, 0x23#8, 0x24#8] ++
  [Config.haltOpcode]

/-- Why a Word is no instruction. -/
inductive DecodeError where
  /-- The opcode byte has no entry in the instruction-set table (30_encoding.md R99, R100; 41_sequencer.md R165). -/
  | invalidInstruction (opcode : Byte)
  deriving DecidableEq, Repr

/-- The decoder, total on all Words: the table look-up of Decode (R164) and the dispatch of Execute (R166). -/
def decode (w : Word) : Except DecodeError Instr :=
  if Config.instrTable.contains (opcodeOf w) then
    match Config.opmap (opcodeOf w) (operandOf w) with
    | some i => .ok i
    | none => .error (.invalidInstruction (opcodeOf w))
  else .error (.invalidInstruction (opcodeOf w))

/-- The opcode byte of an instruction, from the table of 30_encoding.md R96. -/
def Instr.opcode : Instr → Byte
  | .addImmA _ => 0x01#8
  | .addImmB _ => 0x02#8
  | .addDirA _ => 0x03#8
  | .addDirB _ => 0x04#8
  | .addBA _ => 0x05#8
  | .addAB _ => 0x06#8
  | .subImmA _ => 0x07#8
  | .subImmB _ => 0x08#8
  | .subDirA _ => 0x09#8
  | .subDirB _ => 0x0A#8
  | .subBA _ => 0x0B#8
  | .subAB _ => 0x0C#8
  | .compareImmA _ => 0x0D#8
  | .compareImmB _ => 0x0E#8
  | .compareDirA _ => 0x0F#8
  | .compareDirB _ => 0x10#8
  | .compareBA _ => 0x11#8
  | .compareAB _ => 0x12#8
  | .moveImmA _ => 0x13#8
  | .moveImmB _ => 0x14#8
  | .moveDirToA _ => 0x15#8
  | .moveDirToB _ => 0x16#8
  | .moveAToDir _ => 0x17#8
  | .moveBToDir _ => 0x18#8
  | .moveAToInd _ => 0x19#8
  | .moveBToInd _ => 0x1A#8
  | .jmpImm _ => 0x1B#8
  | .jmpDir _ => 0x1C#8
  | .bcs _ => 0x1D#8
  | .bcc _ => 0x1E#8
  | .bns _ => 0x1F#8
  | .bnc _ => 0x20#8
  | .bzs _ => 0x21#8
  | .bzc _ => 0x22#8
  | .bvs _ => 0x23#8
  | .bvc _ => 0x24#8
  | .halt _ => 0xFF#8

/-- The operand byte an instruction carries. -/
def Instr.operand : Instr → Byte
  | .addImmA b | .addImmB b | .addDirA b | .addDirB b | .addBA b | .addAB b
  | .subImmA b | .subImmB b | .subDirA b | .subDirB b | .subBA b | .subAB b
  | .compareImmA b | .compareImmB b | .compareDirA b | .compareDirB b | .compareBA b | .compareAB b
  | .moveImmA b | .moveImmB b | .moveDirToA b | .moveDirToB b | .moveAToDir b | .moveBToDir b
  | .moveAToInd b | .moveBToInd b | .jmpImm b | .jmpDir b | .bcs b | .bcc b
  | .bns b | .bnc b | .bzs b | .bzc b | .bvs b | .bvc b
  | .halt b => b

/-- The encoder: the Word of an instruction, opcode byte then operand byte (30_encoding.md R91, R96). -/
def encode (i : Instr) : Word := wordOf i.opcode i.operand

/-- The Word that an instruction's bits form, numbered as spec/opcode_table.json numbers them: bit 0 is the least
significant bit of the one Word; the bits above `nbits` are 0. -/
def tableWord (nbits w : Nat) : Word := BitVec.ofNat 16 (w % 2 ^ nbits)

/-- The instruction the decoder reads from those bits; `none` where it refuses, and for more than one Word (R90). -/
def decodeTableWord (nbits w : Nat) : Option Instr :=
  if nbits ≤ 16 then
    match decode (tableWord nbits w) with
    | .ok i => some i
    | .error _ => none
  else none

end Sys2Proof
end

