-- ==== Sys2Proof/Machine/State.lean ====
section
/-! DEFINITION. The state of the core (10_state.md R20: "The complete state of the core. Nothing else is state"), the
reasons a step can stop (60_exceptions.md R261) and the state after reset (10_state.md R43). -/

namespace Sys2Proof.Machine

/-- The ALU operation selected (10_state.md R35). -/
inductive Circuit where
  | add | sub | mul | div
  deriving DecidableEq, Repr

/-- The ALU's operand latches X and Y, its selector and its result latch Z (10_state.md R34, R35, R36). -/
structure Alu where
  x : Word
  y : Word
  circuit : Circuit
  z : Word
  deriving DecidableEq, Repr

/-- The Process Status Register: four independent flags (10_state.md R30). -/
structure Psr where
  /-- carry -/
  c : Bool
  /-- zero -/
  z : Bool
  /-- negative -/
  n : Bool
  /-- overflow -/
  v : Bool
  deriving DecidableEq, Repr

/-- ENG.phase (10_state.md R39). -/
inductive Phase where
  | idle | fetching | decoding | executing
  deriving DecidableEq, Repr

/-- The memory array as the list of its non-zero slots, (slot, Word), in rising slot order. An unlisted slot holds
0x0000, the reset contents (20_memory.md R78). The slot is the only addressable unit (R60; DESIGN CHOICE, log 1). -/
abbrev Memory := List (Nat × Word)

/-- A slot index, the range of MEM.ptr (10_state.md R38). -/
abbrev SlotIndex := Fin 256

/-- The machine's state, field for field the table of 10_state.md R20. -/
structure State where
  /-- PC (R23) -/
  pc : Word
  /-- MAR (R26) -/
  mar : Word
  /-- MDR (R27) -/
  mdr : Word
  /-- IR (R28) -/
  ir : Word
  /-- GPA (R22) -/
  gpa : Word
  /-- GPB (R22) -/
  gpb : Word
  /-- ALU.X, ALU.Y, ALU.circuit, ALU.Z (R34, R35, R36) -/
  alu : Alu
  /-- PSR.C, PSR.Z, PSR.N, PSR.V (R30) -/
  psr : Psr
  /-- MEM[0..255] (R37) -/
  mem : Memory
  /-- MEM.ptr (R38) -/
  ptr : SlotIndex
  /-- ENG.phase (R39) -/
  phase : Phase
  /-- ENG.cur: an opcode byte, or none before the first successful Decode (R40) -/
  cur : Option Byte
  deriving DecidableEq, Repr

/-- The errors the core raises (60_exceptions.md R261): names with the information each carries, no codes (R267).
All four are the spec's own, so stopping on them is safe. -/
inductive Fault where
  /-- A command that arrives while ENG.phase is not Idle (41_sequencer.md R161). Raised by every engine command. Safe. -/
  | busy
  /-- SetPtr, or a host memory access, with an address of 256 or more (20_memory.md R62, R63). Raised by Fetch and the
  two indirect MOVEs. Safe. -/
  | addressOutOfRange (address : Nat)
  /-- An opcode byte with no entry (41_sequencer.md R165, R167). Raised by Decode and Execute. Safe. -/
  | invalidInstruction (opcode : Byte)
  /-- compute_z with circuit Div and Y = 0 (40_alu.md R141). Raised by the host's ALU interface only (R146). Safe. -/
  | divisionByZero
  deriving DecidableEq, Repr

/-- Why the model would give an instruction no meaning. -/
inductive Refusal where
  /-- An arm of exec that has no meaning yet. No arm of this model uses it. Safe. -/
  | notModelled (mnemonic : String)
  deriving DecidableEq, Repr

/-- What a micro-sequence ends in. -/
abbrev Result := Host.Outcome State Fault Refusal

/-- RESET_STATE: the value of every piece of state after reset (10_state.md R43). -/
def State.reset : State where
  pc := 0x0000#16
  mar := 0x0000#16
  mdr := 0x0000#16
  ir := 0x0000#16
  gpa := 0x0000#16
  gpb := 0x0000#16
  alu := { x := 0x0000#16, y := 0x0000#16, circuit := .add, z := 0x0000#16 }
  psr := { c := false, z := false, n := false, v := false }
  mem := []
  ptr := 0
  phase := .idle
  cur := none

end Sys2Proof.Machine
end

