-- ==== Sys2Proof/Machine/Flags.lean ====
section
/-! DEFINITION. The four ALU circuits with their carry and overflow conditions (40_alu.md R133 to R143), the flags a
result gives (R132), and the PSR's interface (10_state.md R31, R33). Every circuit computes the exact integer first and
truncates once, at the end (40_alu.md R144). -/

namespace Sys2Proof.Machine

/-- is_zero(w) (00_scope.md R8). -/
def isZero (w : Word) : Bool := w == 0x0000#16

/-- is_negative(w): bit 15 (00_scope.md R8). -/
def isNegative (w : Word) : Bool := w.msb

/-- The exact signed result lies outside i16 (40_alu.md R136, R139, R142). -/
def outsideI16 (n : Int) : Bool := decide (Config.i16Max < n) || decide (n < Config.i16Min)

/-- What a circuit gives: the truncated result and the transient carry and overflow markers (40_alu.md R131, R144). -/
structure AluResult where
  r : Word
  c : Bool
  v : Bool
  deriving DecidableEq, Repr

/-- Add, carry: the unsigned sum wraps past 65535 (40_alu.md R134). -/
def addCarry (x y : Word) : Bool := decide (Config.u16Max < x.toNat + y.toNat)

/-- Add, overflow: operands of one sign whose signed sum leaves i16 (40_alu.md R135). -/
def addOverflow (x y : Word) : Bool :=
  (decide (0 ≤ x.toInt) && decide (0 ≤ y.toInt) && decide (Config.i16Max < x.toInt + y.toInt)) ||
  (decide (x.toInt < 0) && decide (y.toInt < 0) && decide (x.toInt + y.toInt < Config.i16Min))

/-- SUB_CARRY: carry after a subtraction is borrow (40_alu.md R137; the spec's decision D10). -/
def Config.subCarry (x y : Word) : Bool := decide (x.toNat < y.toNat)

/-- MUL_CARRY: the unsigned product wraps past 65535 (40_alu.md R140; the spec's decision D11). -/
def Config.mulCarry (x y : Word) : Bool := decide (Config.u16Max < x.toNat * y.toNat)

/-- DIV_CARRY: a quotient never wraps (40_alu.md R143; the spec's decision D12). -/
def Config.divCarry (_x _y : Word) : Bool := false

/-- DIV_ROUNDING: the signed quotient rounded toward zero (40_alu.md R142; the spec's decision D12). -/
def Config.divRounding (x y : Int) : Int := x.tdiv y

/-- The Add circuit (40_alu.md R133, R134, R135). -/
def addCircuit (x y : Word) : AluResult :=
  { r := trunc16 (x.toNat + y.toNat), c := addCarry x y, v := addOverflow x y }

/-- The Sub circuit, X minus Y (40_alu.md R136, R137). -/
def subCircuit (x y : Word) : AluResult :=
  { r := trunc16 (x.toInt - y.toInt), c := Config.subCarry x y, v := outsideI16 (x.toInt - y.toInt) }

/-- The Mul circuit (40_alu.md R138, R139, R140). -/
def mulCircuit (x y : Word) : AluResult :=
  { r := trunc16 (x.toInt * y.toInt), c := Config.mulCarry x y, v := outsideI16 (x.toInt * y.toInt) }

/-- The Div circuit for a divisor that is not 0 (40_alu.md R142, R143). -/
def divCircuit (x y : Word) : AluResult :=
  { r := trunc16 (Config.divRounding x.toInt y.toInt), c := Config.divCarry x y,
    v := outsideI16 (Config.divRounding x.toInt y.toInt) }

/-- circuit_result(circuit, X, Y); `none` is division by zero (40_alu.md R131, R141). -/
def circuitResult (k : Circuit) (x y : Word) : Option AluResult :=
  match k with
  | .add => some (addCircuit x y)
  | .sub => some (subCircuit x y)
  | .mul => some (mulCircuit x y)
  | .div => if y = 0x0000#16 then none else some (divCircuit x y)

/-- The flags compute_z writes, all four: Z and N from the truncated result (40_alu.md R131, R132). -/
def flagsOf (a : AluResult) : Psr := { c := a.c, z := isZero a.r, n := isNegative a.r, v := a.v }

/-- The name of a flag, as the PSR's interface takes it (10_state.md R31). -/
inductive Flag where
  | carry | zero | negative | overflow
  deriving DecidableEq, Repr

/-- get_flag(flag) (10_state.md R31). -/
def Psr.get (p : Psr) (f : Flag) : Bool :=
  match f with
  | .carry => p.c
  | .zero => p.z
  | .negative => p.n
  | .overflow => p.v

/-- set_flag(flag, b), as the assignment it is (10_state.md R31). -/
def Psr.set (p : Psr) (f : Flag) (b : Bool) : Psr :=
  match f with
  | .carry => { p with c := b }
  | .zero => { p with z := b }
  | .negative => { p with n := b }
  | .overflow => { p with v := b }

/-- PSR_PACKING: the packed view V ++ N ++ Z ++ C; no rule reads it (10_state.md R33; the spec's decision D20). -/
def Config.psrPacking (p : Psr) : BitVec Config.numFlags :=
  BitVec.ofBool p.v ++ BitVec.ofBool p.n ++ BitVec.ofBool p.z ++ BitVec.ofBool p.c

end Sys2Proof.Machine
end

