-- ==== Sys2Proof/Machine/Memory.lean ====
section
/-! DEFINITION. The memory array: reading and writing one slot, and its canonical form (20_memory.md R60, R61, R62). -/

namespace Sys2Proof.Machine

/-- What an unlisted slot holds: the reset contents (20_memory.md R78). -/
def Memory.unlisted : Word := 0x0000#16

/-- MEM[a] (20_memory.md R62, R64). -/
def Memory.read : Memory → Nat → Word
  | [], _ => Memory.unlisted
  | (k, v) :: m, a => if k = a then v else Memory.read m a

/-- MEM[a] <- w (20_memory.md R62, R65), keeping the canonical form: a slot that becomes 0x0000 is unlisted. -/
def Memory.write : Memory → Nat → Word → Memory
  | [], a, w => if w = Memory.unlisted then [] else [(a, w)]
  | (k, v) :: m, a, w =>
    if k < a then (k, v) :: Memory.write m a w
    else
      let rest := if k = a then m else (k, v) :: m
      if w = Memory.unlisted then rest else (a, w) :: rest

/-- The slots are listed in strictly rising order. -/
def Memory.rising : Memory → Bool
  | [] => true
  | (k, _) :: m => m.all (fun c => decide (k < c.1)) && Memory.rising m

/-- The canonical form: rising slots, each below 256 (10_state.md R37), none holding what an unlisted slot holds. -/
def Memory.wf (m : Memory) : Bool :=
  Memory.rising m && m.all fun c => decide (c.1 < Config.memSlots) && (c.2 != Memory.unlisted)

end Sys2Proof.Machine
end

