-- ==== Sys2Proof/Machine/Operands.lean ====
section
/-! DEFINITION. The operand forms: how the operand byte and the opcode name a value or an address
(30_encoding.md R93, R94, R97). -/

namespace Sys2Proof.Machine

/-- The two general registers, GPA and GPB (10_state.md R22). -/
inductive Gpr where
  | a | b
  deriving DecidableEq, Repr

/-- The other general register: the source of a register-to-register form (30_encoding.md R97; the spec's decision D3). -/
def Gpr.other : Gpr → Gpr
  | .a => .b
  | .b => .a

/-- IMM_EXTEND: the operand byte as a Word, zero-extended (30_encoding.md R94; the spec's decision D6). -/
def Config.immExtend (b : Byte) : Word := b.setWidth 16

/-- The value of an immediate operand (30_encoding.md R93, R94). -/
def immediate (b : Byte) : Word := Config.immExtend b

/-- The address a direct operand names; for an indirect operand, the slot that holds the address (30_encoding.md R93). -/
def directAddress (b : Byte) : Word := Config.immExtend b

/-- The slot a direct operand names, as MEM.ptr holds it (20_memory.md R67: always in range). -/
def slotOf (b : Byte) : SlotIndex := ⟨b.toNat, b.isLt⟩

/-- The source operand of ADD, SUB and COMPARE (30_encoding.md R93). -/
inductive Source where
  /-- The operand byte itself. -/
  | immediate (b : Byte)
  /-- The Word in the slot the operand byte names. -/
  | direct (b : Byte)
  /-- The other general register; the operand byte is not used. -/
  | register
  deriving DecidableEq, Repr

/-- ALU_OPERAND_ORDER: which operand goes to X and which to Y: the destination register to X, the source operand to Y
(42_arithmetic.md R190(a); the spec's decision D4). -/
def Config.aluOperandOrder (destination source : Word) : Word × Word := (destination, source)

/-- COMPARE_CIRCUIT: the circuit COMPARE selects (42_arithmetic.md R190(b); the spec's decision D5). -/
def Config.compareCircuit : Circuit := .sub

/-- JMP_DIRECT_MEANING: the target of `JMP a`, from its operand address and the Word read there: the Word, all 16 bits
(44_control.md R242; the spec's decision D8). -/
def Config.jmpDirectMeaning (_address word : Word) : Word := word

end Sys2Proof.Machine
end

