-- ==== Sys2Proof/Machine/Ops.lean ====
section
/-! DEFINITION. The operations the meanings are made of: register and latch writes, the memory pointer interface, the
memory access patterns, compute_z, the shared pipelines of the instruction families, and the all-or-nothing cycle that
is the core's whole error mechanism. Each `with…` is one micro-instruction (00_scope.md R12). -/

namespace Sys2Proof.Machine

/-! ### One field written -/

/-- PC.write(w): all 16 bits (10_state.md R25). -/
def State.withPc (s : State) (w : Word) : State := { s with pc := w }

/-- MAR <- w (10_state.md R26). -/
def State.withMar (s : State) (w : Word) : State := { s with mar := w }

/-- MDR <- w (10_state.md R27). -/
def State.withMdr (s : State) (w : Word) : State := { s with mdr := w }

/-- IR <- w; both views change at once (10_state.md R28). -/
def State.withIr (s : State) (w : Word) : State := { s with ir := w }

/-- GPA <- w (10_state.md R22). -/
def State.withGpa (s : State) (w : Word) : State := { s with gpa := w }

/-- GPB <- w (10_state.md R22). -/
def State.withGpb (s : State) (w : Word) : State := { s with gpb := w }

/-- The ALU's latches replaced. -/
def State.withAlu (s : State) (a : Alu) : State := { s with alu := a }

/-- The flags replaced. -/
def State.withPsr (s : State) (p : Psr) : State := { s with psr := p }

/-- The memory array replaced. -/
def State.withMem (s : State) (m : Memory) : State := { s with mem := m }

/-- MEM.ptr <- p (10_state.md R38). -/
def State.withPtr (s : State) (p : SlotIndex) : State := { s with ptr := p }

/-- ENG.phase <- p (10_state.md R39). -/
def State.withPhase (s : State) (p : Phase) : State := { s with phase := p }

/-- ENG.cur <- c (10_state.md R40). -/
def State.withCur (s : State) (c : Option Byte) : State := { s with cur := c }

/-! ### General registers -/

/-- x[r] (00_scope.md R9). -/
def State.gpr (s : State) (r : Gpr) : Word :=
  match r with
  | .a => s.gpa
  | .b => s.gpb

/-- x[r] <- w (00_scope.md R9). -/
def State.withGpr (s : State) (r : Gpr) (w : Word) : State :=
  match r with
  | .a => s.withGpa w
  | .b => s.withGpb w

/-! ### Sequencing -/

/-- Run the rest of a micro-sequence on what the first part left; an error ends the sequence (00_scope.md R11, R12). -/
def andThen (r : Result) (rest : State → Result) : Result :=
  match r with
  | .next s => rest s
  | .fault e => .fault e
  | .refused q => .refused q

/-! ### The program counter -/

/-- PC.increment(): 255 becomes 0; above 255 the value is never committed (10_state.md R24; log 11). -/
def pcIncrement (w : Word) : Word :=
  if w.toNat < Config.memSlots then BitVec.ofNat 16 ((w.toNat + 1) % Config.pcWrap)
  else BitVec.ofNat 16 (w.toNat + 1)

/-! ### The memory pointer interface -/

/-- SetPtr: set_pointer(address), with its bounds check (20_memory.md R63). -/
def setPointer (address : Nat) (s : State) : Result :=
  if h : address < Config.memSlots then .next (s.withPtr ⟨address, h⟩)
  else .fault (.addressOutOfRange address)

/-- SetPtr(MAR): the address is MAR taken as unsigned (20_memory.md R63). -/
def setPtrFromMar (s : State) : Result := setPointer s.mar.toNat s

/-- ReadPtr: read_at_pointer() (20_memory.md R64). -/
def readPtr (s : State) : Word := Memory.read s.mem s.ptr

/-- WritePtr: write_at_pointer(w) (20_memory.md R65). -/
def writePtr (w : Word) (s : State) : State := s.withMem (Memory.write s.mem s.ptr w)

/-! ### The access patterns -/

/-- The engine's read: MAR <- a; SetPtr(MAR); MDR <- ReadPtr() (20_memory.md R66). -/
def readInto (a : Word) (s : State) : Result :=
  andThen (setPtrFromMar (s.withMar a)) fun s => .next (s.withMdr (readPtr s))

/-- The engine's write of a register: MAR <- a; SetPtr(MAR); MDR <- x[r]; WritePtr(MDR) (20_memory.md R66). -/
def storeReg (a : Word) (r : Gpr) (s : State) : Result :=
  andThen (setPtrFromMar (s.withMar a)) fun s =>
    let s := s.withMdr (s.gpr r)
    .next (writePtr s.mdr s)

/-! ### The ALU interface -/

/-- write_x(w) (40_alu.md R130). -/
def writeX (w : Word) (s : State) : State := s.withAlu { s.alu with x := w }

/-- write_y(w) (40_alu.md R130). -/
def writeY (w : Word) (s : State) : State := s.withAlu { s.alu with y := w }

/-- set_circuit(c) (40_alu.md R130). -/
def setCircuit (c : Circuit) (s : State) : State := s.withAlu { s.alu with circuit := c }

/-- compute_z(): the result into Z and all four flags, or DivisionByZero and nothing (40_alu.md R131). -/
def computeZ (s : State) : Result :=
  match circuitResult s.alu.circuit s.alu.x s.alu.y with
  | none => .fault .divisionByZero
  | some a => .next ((s.withAlu { s.alu with z := a.r }).withPsr (flagsOf a))

/-! ### The families' pipelines -/

/-- The memory step of a source operand: direct forms read the slot into MDR, the others do nothing (R190(c), (d)). -/
def fetchSource (src : Source) (s : State) : Result :=
  match src with
  | .direct b => readInto (directAddress b) s
  | .immediate _ | .register => .next s

/-- The value of the source operand, once its memory step has run, for the destination register `r`. -/
def sourceValue (src : Source) (r : Gpr) (s : State) : Word :=
  match src with
  | .immediate b => immediate b
  | .direct _ => s.mdr
  | .register => s.gpr r.other

/-- X, then Y, then the circuit are loaded, and compute_z runs (42_arithmetic.md R190(a), (d), (e)). -/
def loadAndCompute (k : Circuit) (destination source : Word) (s : State) : Result :=
  let latches := Config.aluOperandOrder destination source
  computeZ (setCircuit k (writeY latches.2 (writeX latches.1 s)))

/-- The pipeline ADD, SUB and COMPARE share (42_arithmetic.md R190). -/
def aluPipeline (k : Circuit) (r : Gpr) (src : Source) (s : State) : Result :=
  andThen (fetchSource src s) fun s => loadAndCompute k (s.gpr r) (sourceValue src r s) s

/-- ADD and SUB: the pipeline, then x[r] <- ALU.Z (42_arithmetic.md R190). -/
def computeInto (k : Circuit) (r : Gpr) (src : Source) (s : State) : Result :=
  andThen (aluPipeline k r src s) fun s => .next (s.withGpr r s.alu.z)

/-- COMPARE: the pipeline alone, no register receives ALU.Z (42_arithmetic.md R190(e)). -/
def compareWith (r : Gpr) (src : Source) (s : State) : Result := aluPipeline Config.compareCircuit r src s

/-- The MOVE loads: the slot into MDR, MDR into the register (43_move.md R223). -/
def loadReg (b : Byte) (r : Gpr) (s : State) : Result :=
  andThen (readInto (directAddress b) s) fun s => .next (s.withGpr r s.mdr)

/-- The indirect MOVE stores: the pointer Word into MDR, then the store at that address (43_move.md R227). -/
def storeIndirect (b : Byte) (r : Gpr) (s : State) : Result :=
  andThen (readInto (directAddress b) s) fun s => storeReg s.mdr r s

/-- The branches: PC <- zext_16(b) if the guard holds (44_control.md R240, R243). -/
def branchIf (guard : Bool) (b : Byte) (s : State) : Result :=
  if guard then .next (s.withPc (immediate b)) else .next s

/-! ### Errors: the all-or-nothing cycle -/

/-- What a command answers to the host (60_exceptions.md R267). -/
inductive Reply where
  /-- The command completed. -/
  | done
  /-- The named error. -/
  | error (f : Fault)
  /-- An instruction with no meaning in the model; never answered. -/
  | refused (q : Refusal)
  deriving DecidableEq, Repr

/-- The whole of the core's error mechanism, as one operation: a command that arrives while the phase is not Idle
raises Busy and changes nothing (41_sequencer.md R161); a cycle runs in its phase and ends in Idle (10_state.md R39);
a cycle that raises is undone, whole, with the phase Idle, and the error goes to the host (60_exceptions.md R262, R268).
There is no handler and no return (R268, R269). -/
def atomicCycle (during : Phase) (body : State → Result) (s : State) : State × Reply :=
  if s.phase = .idle then
    match body (s.withPhase during) with
    | .next t => (t.withPhase .idle, .done)
    | .fault f => (s, .error f)
    | .refused q => (s, .refused q)
  else (s, .error .busy)

/-- The next cycle of a logical instruction, run if the one before it completed (41_sequencer.md R160). -/
def ifDone (p : State × Reply) (next : State → State × Reply) : State × Reply :=
  match p.2 with
  | .done => next p.1
  | .error _ | .refused _ => p

end Sys2Proof.Machine
end

