-- ==== Sys2Proof/Machine/Arithmetic.lean ====
section
/-! DEFINITION. The meanings of ADD, SUB and COMPARE (42_arithmetic.md R190 to R208). -/

namespace Sys2Proof.Machine

/-- `ADD #v,A` (42_arithmetic.md R191). -/
def execAddImmA (b : Byte) (s : State) : Result := computeInto .add .a (.immediate b) s

/-- `ADD #v,B` (42_arithmetic.md R192). -/
def execAddImmB (b : Byte) (s : State) : Result := computeInto .add .b (.immediate b) s

/-- `ADD a,A` (42_arithmetic.md R193). -/
def execAddDirA (b : Byte) (s : State) : Result := computeInto .add .a (.direct b) s

/-- `ADD a,B` (42_arithmetic.md R194). -/
def execAddDirB (b : Byte) (s : State) : Result := computeInto .add .b (.direct b) s

/-- `ADD B,A` (42_arithmetic.md R195). -/
def execAddBA (_b : Byte) (s : State) : Result := computeInto .add .a .register s

/-- `ADD A,B` (42_arithmetic.md R196). -/
def execAddAB (_b : Byte) (s : State) : Result := computeInto .add .b .register s

/-- `SUB #v,A` (42_arithmetic.md R197). -/
def execSubImmA (b : Byte) (s : State) : Result := computeInto .sub .a (.immediate b) s

/-- `SUB #v,B` (42_arithmetic.md R198). -/
def execSubImmB (b : Byte) (s : State) : Result := computeInto .sub .b (.immediate b) s

/-- `SUB a,A` (42_arithmetic.md R199). -/
def execSubDirA (b : Byte) (s : State) : Result := computeInto .sub .a (.direct b) s

/-- `SUB a,B` (42_arithmetic.md R200). -/
def execSubDirB (b : Byte) (s : State) : Result := computeInto .sub .b (.direct b) s

/-- `SUB B,A` (42_arithmetic.md R201). -/
def execSubBA (_b : Byte) (s : State) : Result := computeInto .sub .a .register s

/-- `SUB A,B` (42_arithmetic.md R202). -/
def execSubAB (_b : Byte) (s : State) : Result := computeInto .sub .b .register s

/-- `COMPARE #v,A` (42_arithmetic.md R203). -/
def execCompareImmA (b : Byte) (s : State) : Result := compareWith .a (.immediate b) s

/-- `COMPARE #v,B` (42_arithmetic.md R204). -/
def execCompareImmB (b : Byte) (s : State) : Result := compareWith .b (.immediate b) s

/-- `COMPARE a,A` (42_arithmetic.md R205). -/
def execCompareDirA (b : Byte) (s : State) : Result := compareWith .a (.direct b) s

/-- `COMPARE a,B` (42_arithmetic.md R206). -/
def execCompareDirB (b : Byte) (s : State) : Result := compareWith .b (.direct b) s

/-- `COMPARE B,A` (42_arithmetic.md R207). -/
def execCompareBA (_b : Byte) (s : State) : Result := compareWith .a .register s

/-- `COMPARE A,B` (42_arithmetic.md R208). -/
def execCompareAB (_b : Byte) (s : State) : Result := compareWith .b .register s

end Sys2Proof.Machine
end

