-- ==== Sys2Proof/Machine/Control.lean ====
section
/-! DEFINITION. The meanings of JMP, the eight branches and HALT (44_control.md R240 to R251). -/

namespace Sys2Proof.Machine

/-- `JMP #t` (44_control.md R241). -/
def execJmpImm (b : Byte) (s : State) : Result := .next (s.withPc (immediate b))

/-- `JMP a` (44_control.md R242). -/
def execJmpDir (b : Byte) (s : State) : Result :=
  andThen (readInto (directAddress b) s) fun s => .next (s.withPc (Config.jmpDirectMeaning (directAddress b) s.mdr))

/-- `BCS #t` (44_control.md R243). -/
def execBcs (b : Byte) (s : State) : Result := branchIf s.psr.c b s

/-- `BCC #t` (44_control.md R244). -/
def execBcc (b : Byte) (s : State) : Result := branchIf (!s.psr.c) b s

/-- `BNS #t` (44_control.md R245). -/
def execBns (b : Byte) (s : State) : Result := branchIf s.psr.n b s

/-- `BNC #t` (44_control.md R246). -/
def execBnc (b : Byte) (s : State) : Result := branchIf (!s.psr.n) b s

/-- `BZS #t` (44_control.md R247). -/
def execBzs (b : Byte) (s : State) : Result := branchIf s.psr.z b s

/-- `BZC #t` (44_control.md R248). -/
def execBzc (b : Byte) (s : State) : Result := branchIf (!s.psr.z) b s

/-- `BVS #t` (44_control.md R249). -/
def execBvs (b : Byte) (s : State) : Result := branchIf s.psr.v b s

/-- `BVC #t` (44_control.md R250). -/
def execBvc (b : Byte) (s : State) : Result := branchIf (!s.psr.v) b s

/-- `HALT` given to Execute by hand: no micro-instructions (44_control.md R251; the spec's decision D16). -/
def execHalt (_b : Byte) (s : State) : Result := .next s

end Sys2Proof.Machine
end

