-- ==== Sys2Proof/Machine/Move.lean ====
section
/-! DEFINITION. The meanings of MOVE (43_move.md R220 to R228). -/

namespace Sys2Proof.Machine

/-- `MOVE #v,A` (43_move.md R221). -/
def execMoveImmA (b : Byte) (s : State) : Result := .next (s.withGpr .a (immediate b))

/-- `MOVE #v,B` (43_move.md R222). -/
def execMoveImmB (b : Byte) (s : State) : Result := .next (s.withGpr .b (immediate b))

/-- `MOVE a,A` (43_move.md R223). -/
def execMoveDirToA (b : Byte) (s : State) : Result := loadReg b .a s

/-- `MOVE a,B` (43_move.md R224). -/
def execMoveDirToB (b : Byte) (s : State) : Result := loadReg b .b s

/-- `MOVE A,a` (43_move.md R225). -/
def execMoveAToDir (b : Byte) (s : State) : Result := storeReg (directAddress b) .a s

/-- `MOVE B,a` (43_move.md R226). -/
def execMoveBToDir (b : Byte) (s : State) : Result := storeReg (directAddress b) .b s

/-- `MOVE A,(a)` (43_move.md R227). -/
def execMoveAToInd (b : Byte) (s : State) : Result := storeIndirect b .a s

/-- `MOVE B,(a)` (43_move.md R228). -/
def execMoveBToInd (b : Byte) (s : State) : Result := storeIndirect b .b s

end Sys2Proof.Machine
end

