-- ==== Sys2Proof/Machine/Dispatch.lean ====
section
/-! DEFINITION. Execute's dispatch table: one arm per instruction, one meaning per arm (41_sequencer.md R166). -/

namespace Sys2Proof.Machine

def exec (i : Instr) (s : State) : Host.Outcome State Fault Refusal :=
  match i with
  | .addImmA b => Sys2Proof.Machine.execAddImmA b s
  | .addImmB b => Sys2Proof.Machine.execAddImmB b s
  | .addDirA b => Sys2Proof.Machine.execAddDirA b s
  | .addDirB b => Sys2Proof.Machine.execAddDirB b s
  | .addBA b => Sys2Proof.Machine.execAddBA b s
  | .addAB b => Sys2Proof.Machine.execAddAB b s
  | .subImmA b => Sys2Proof.Machine.execSubImmA b s
  | .subImmB b => Sys2Proof.Machine.execSubImmB b s
  | .subDirA b => Sys2Proof.Machine.execSubDirA b s
  | .subDirB b => Sys2Proof.Machine.execSubDirB b s
  | .subBA b => Sys2Proof.Machine.execSubBA b s
  | .subAB b => Sys2Proof.Machine.execSubAB b s
  | .compareImmA b => Sys2Proof.Machine.execCompareImmA b s
  | .compareImmB b => Sys2Proof.Machine.execCompareImmB b s
  | .compareDirA b => Sys2Proof.Machine.execCompareDirA b s
  | .compareDirB b => Sys2Proof.Machine.execCompareDirB b s
  | .compareBA b => Sys2Proof.Machine.execCompareBA b s
  | .compareAB b => Sys2Proof.Machine.execCompareAB b s
  | .moveImmA b => Sys2Proof.Machine.execMoveImmA b s
  | .moveImmB b => Sys2Proof.Machine.execMoveImmB b s
  | .moveDirToA b => Sys2Proof.Machine.execMoveDirToA b s
  | .moveDirToB b => Sys2Proof.Machine.execMoveDirToB b s
  | .moveAToDir b => Sys2Proof.Machine.execMoveAToDir b s
  | .moveBToDir b => Sys2Proof.Machine.execMoveBToDir b s
  | .moveAToInd b => Sys2Proof.Machine.execMoveAToInd b s
  | .moveBToInd b => Sys2Proof.Machine.execMoveBToInd b s
  | .jmpImm b => Sys2Proof.Machine.execJmpImm b s
  | .jmpDir b => Sys2Proof.Machine.execJmpDir b s
  | .bcs b => Sys2Proof.Machine.execBcs b s
  | .bcc b => Sys2Proof.Machine.execBcc b s
  | .bns b => Sys2Proof.Machine.execBns b s
  | .bnc b => Sys2Proof.Machine.execBnc b s
  | .bzs b => Sys2Proof.Machine.execBzs b s
  | .bzc b => Sys2Proof.Machine.execBzc b s
  | .bvs b => Sys2Proof.Machine.execBvs b s
  | .bvc b => Sys2Proof.Machine.execBvc b s
  | .halt b => Sys2Proof.Machine.execHalt b s

end Sys2Proof.Machine
end

