-- ==== Sys2Proof/Machine/Engine.lean ====
section
/-! DEFINITION. The micro-sequencer: the Fetch, Decode and Execute cycles, one logical instruction, and the run loop
(41_sequencer.md R160 to R175). A cycle is one atomic transition (R174). -/

namespace Sys2Proof.Machine

/-! ### The three cycles -/

/-- Fetch's micro-sequence (41_sequencer.md R162). -/
def fetchBody (s : State) : Result :=
  let s := s.withMar s.pc
  let s := s.withPc (pcIncrement s.pc)
  andThen (setPtrFromMar s) fun s => .next (s.withMdr (readPtr s))

/-- Decode's micro-sequence (41_sequencer.md R164, R165). -/
def decodeBody (s : State) : Result :=
  let s := s.withIr s.mdr
  if Config.instrTable.contains (opcodeOf s.ir) then .next (s.withCur (some (opcodeOf s.ir)))
  else .fault (.invalidInstruction (opcodeOf s.ir))

/-- Execute: dispatch on IR.opcode, not on ENG.cur, with IR.operand as operand (41_sequencer.md R166, R167). -/
def executeBody (s : State) : Result :=
  match Config.opmap (opcodeOf s.ir) (operandOf s.ir) with
  | some i => exec i s
  | none => .fault (.invalidInstruction (opcodeOf s.ir))

/-- The `fetch` command (41_sequencer.md R160, R162, R163). -/
def fetchCommand (s : State) : State × Reply := atomicCycle .fetching fetchBody s

/-- The `decode` command (41_sequencer.md R160, R164, R165). -/
def decodeCommand (s : State) : State × Reply := atomicCycle .decoding decodeBody s

/-- The `execute` command (41_sequencer.md R160, R166, R168). -/
def executeCommand (s : State) : State × Reply := atomicCycle .executing executeBody s

/-! ### One logical instruction -/

/-- Fetch then Decode, stopping at the first error. -/
def fetchDecode (s : State) : State × Reply := ifDone (fetchCommand s) decodeCommand

/-- What an error inside a logical instruction can undo (00_scope.md R5, ROLLBACK_UNIT). -/
inductive RollbackUnit where
  /-- The cycle that raised, and nothing before it. -/
  | cycle
  /-- The whole logical instruction, its completed cycles too. -/
  | instruction
  deriving DecidableEq, Repr

/-- ROLLBACK_UNIT: the cycle (60_exceptions.md R262; the spec's decision D21). -/
def Config.rollbackUnit : RollbackUnit := .cycle

/-- How a logical instruction begun in `start` ends, given what its cycles left. Each cycle has already undone itself
(`atomicCycle`), so with ROLLBACK_UNIT the cycle nothing is left to undo. -/
def rollBack (start : State) (p : State × Reply) : State × Reply :=
  match Config.rollbackUnit, p.2 with
  | .instruction, .error _ => (start, p.2)
  | _, _ => p

/-- `step()`: fetch, decode, execute in that order, stopping at the first error (41_sequencer.md R160). The state it
gives on an error is what the completed cycles left (60_exceptions.md R262). -/
def stepCommand (s : State) : State × Reply := rollBack s (ifDone (fetchDecode s) executeCommand)

/-! ### The run loop -/

/-- How `run` ends (41_sequencer.md R175). -/
inductive RunEnd where
  /-- Decode has put HALT in IR (R172). -/
  | halted
  /-- A cancel request was pending at the top of an iteration (R170). -/
  | cancelled
  /-- A cycle raised (R171). -/
  | error (f : Fault)
  /-- An instruction with no meaning in the model; never answered. -/
  | refused (q : Refusal)
  /-- Not an end: the samples of the cancel request given to the model are used up and the loop goes on (log 10). -/
  | running
  deriving DecidableEq, Repr

/-- Where the run loop can test for HALT (00_scope.md R5, HALT_TEST_POINT). -/
inductive HaltTest where
  /-- Before Fetch, on the instruction IR still holds. -/
  | loopTop
  /-- After Decode and before Execute. -/
  | afterDecode
  deriving DecidableEq, Repr

/-- HALT_TEST_POINT: after Decode, before Execute (41_sequencer.md R169; the spec's decision D16). -/
def Config.haltTestPoint : HaltTest := .afterDecode

/-- The run loop's test for HALT at a point of its iteration: it is made at HALT_TEST_POINT and nowhere else. -/
def haltsAt (point : HaltTest) (s : State) : Bool :=
  decide (Config.haltTestPoint = point) && decide (opcodeOf s.ir = Config.haltOpcode)

/-- The loop of 41_sequencer.md R169. The list holds what the loop samples of the cancel request at the top of each
iteration, oldest first (R170; log 10). An error ends the loop with what the rollback left (R171). -/
def runLoop : List Bool → State → State × RunEnd
  | [], s => (s, .running)
  | true :: _, s => (s, .cancelled)
  | false :: cancels, s =>
    if haltsAt .loopTop s then (s, .halted)
    else
      match rollBack s (fetchDecode s) with
      | (t, .error f) => (t, .error f)
      | (t, .refused q) => (t, .refused q)
      | (t, .done) =>
        if haltsAt .afterDecode t then (t, .halted)
        else
          match rollBack s (executeCommand t) with
          | (u, .error f) => (u, .error f)
          | (u, .refused q) => (u, .refused q)
          | (u, .done) => runLoop cancels u

/-- The `run` command: Busy while a cycle is in flight, else the loop (41_sequencer.md R161, R169). -/
def runCommand (cancels : List Bool) (s : State) : State × RunEnd :=
  if s.phase = .idle then runLoop cancels s else (s, .error .busy)

/-! ### What Step.lean calls -/

/-- One logical instruction as an outcome. -/
def outcomeOf (p : State × Reply) : Result :=
  match p.2 with
  | .done => .next p.1
  | .error f => .fault f
  | .refused q => .refused q

/-- The state with the Word `w` in the slot the next Fetch reads. Where PC names no slot, PC is first reduced to one,
and where a cycle is in flight the phase is first Idle; nothing else changes (log 8). -/
def placeWord (w : Word) (s : State) : State :=
  let slot := s.pc.toNat % Config.memSlots
  ((s.withPc (BitVec.ofNat 16 slot)).withPhase .idle).withMem (Memory.write s.mem slot w)

end Sys2Proof.Machine
end

