-- ==== Sys2Proof/Machine/Step.lean ====
section
/-! DEFINITION. The step: one logical instruction, Fetch, Decode and Execute (41_sequencer.md R160). -/

namespace Sys2Proof.Machine

/-- One logical instruction. A fault names the error; the state it leaves the host is `(stepCommand s).1` (log 5). -/
def step (s : State) : Host.Outcome State Fault Refusal := outcomeOf (stepCommand s)

/-- `s` with the instruction whose bits are `w` where `step` fetches its next instruction (log 8). -/
def State.withFetchWord (s : State) (nbits w : Nat) : State := placeWord (tableWord nbits w) s

end Sys2Proof.Machine
end

