-- ==== Sys2Proof/Machine/WordText.lean ====
section
/-! DEFINITION. The views of a Word the host's side uses (00_scope.md R8, 20_memory.md R68): no instruction uses them.
A string is given as the list of its characters. -/

namespace Sys2Proof.Machine

/-- One hexadecimal digit, upper-case (00_scope.md R8). -/
def hexDigit (n : BitVec 4) : Char :=
  match n.toNat with
  | 0 => '0' | 1 => '1' | 2 => '2' | 3 => '3' | 4 => '4' | 5 => '5' | 6 => '6' | 7 => '7'
  | 8 => '8' | 9 => '9' | 10 => 'A' | 11 => 'B' | 12 => 'C' | 13 => 'D' | 14 => 'E' | _ => 'F'

/-- to_hex_string(w): 4 digits, zero-padded, most significant first (00_scope.md R8, 30_encoding.md R92). -/
def toHexString (w : Word) : List Char :=
  [hexDigit (w.extractLsb' 12 4), hexDigit (w.extractLsb' 8 4), hexDigit (w.extractLsb' 4 4), hexDigit (w.extractLsb' 0 4)]

/-- The value of a hexadecimal digit, either case; `none` for any other character (log 12). -/
def hexValue (c : Char) : Option (BitVec 4) :=
  if '0' ≤ c ∧ c ≤ '9' then some (BitVec.ofNat 4 (c.toNat - '0'.toNat))
  else if 'A' ≤ c ∧ c ≤ 'F' then some (BitVec.ofNat 4 (c.toNat - 'A'.toNat + 10))
  else if 'a' ≤ c ∧ c ≤ 'f' then some (BitVec.ofNat 4 (c.toNat - 'a'.toNat + 10))
  else none

/-- The error of from_hex_string (00_scope.md R8). -/
inductive NumberFormat where
  | invalidNumberFormat
  deriving DecidableEq, Repr

/-- from_hex_string: exactly four digits (00_scope.md R8; what else is malformed is a DESIGN CHOICE, log 12). -/
def fromHexString (cs : List Char) : Except NumberFormat Word :=
  match cs with
  | [a, b, c, d] =>
    match hexValue a, hexValue b, hexValue c, hexValue d with
    | some a, some b, some c, some d => .ok (a ++ b ++ c ++ d)
    | _, _, _, _ => .error .invalidNumberFormat
  | _ => .error .invalidNumberFormat

/-- from_int(n): trunc16(n) (00_scope.md R8). -/
def fromInt (n : Int) : Word := trunc16 n

end Sys2Proof.Machine
end

