-- ==== Sys2Proof/WellFormed.lean ====
section
/-! DEFINITION. Well-formedness of the syntax. An operand is a byte, so every term of `Instr` has an encoding; what is
left to check is (a) that the instruction-set table has an entry for the opcode (41_sequencer.md R164), (b) for words
an assembler may emit, that an operand byte the hardware ignores is 0x00 (30_encoding.md R97, R98, R110), and (c) the
shape of a program the loader is given (70_reset_and_hazards.md R293, 30_encoding.md R109, R110). The hardware checks
(a) only: it runs instructions that fail (b), and nothing in the machine reads (b) or (c). -/

namespace Sys2Proof

/-- Decode finds an entry for the instruction's opcode in the given table (41_sequencer.md R164). -/
def Instr.wellFormedIn (table : List Byte) (i : Instr) : Bool := table.contains i.opcode

/-- Decode accepts the instruction with this core's instruction-set table. -/
def Instr.wellFormed (i : Instr) : Bool := i.wellFormedIn Config.instrTable

/-- The operand byte is 0x00 wherever the hardware ignores it: the form the assembler emits (R97, R110). -/
def Instr.assemblerForm : Instr → Bool
  | .addBA b | .addAB b | .subBA b | .subAB b | .compareBA b | .compareAB b | .halt b => b == 0x00#8
  | _ => true

/-- A program as the loader takes it: the ORG word W[0] and the Words W[1..] (70_reset_and_hazards.md R293). -/
structure Program where
  org : Word
  words : List Word
  deriving DecidableEq, Repr

/-- W[0] is an ORG word: opcode byte 0x00 (30_encoding.md R109). -/
def Program.startsWithOrg (p : Program) : Bool := opcodeOf p.org == 0x00#8

/-- The last Word is HALT, as the assembler emits it (30_encoding.md R110). -/
def Program.endsWithHalt (p : Program) : Bool := p.words.getLast? == some (encode (.halt 0x00#8))

/-- Every Word after the ORG word is an instruction (30_encoding.md R112). -/
def Program.allDecode (p : Program) : Bool := p.words.all fun w => Config.instrTable.contains (opcodeOf w)

/-- The Words fit between the ORG address and slot 255 (70_reset_and_hazards.md R293). -/
def Program.fits (p : Program) : Bool := decide ((operandOf p.org).toNat + p.words.length ≤ Config.memSlots)

/-- A program an assembler may hand to the loader. -/
def Program.wellFormed (p : Program) : Bool :=
  p.startsWithOrg && p.endsWithHalt && p.allDecode && p.fits

end Sys2Proof
end

