-- ==== Sys2Proof/Machine/HostInterface.lean ====
section
/-! DEFINITION. The host interface: every component's own operations, reset and the loader
(70_reset_and_hazards.md R290, R293, R295). Each call is one atomic transition between cycles. -/

namespace Sys2Proof.Machine

/-! ### Registers -/

/-- The six registers of the register file (10_state.md R20, R29). -/
inductive Reg where
  | pc | mar | mdr | ir | gpa | gpb
  deriving DecidableEq, Repr

/-- read() of a register (10_state.md R29). -/
def State.readReg (s : State) (r : Reg) : Word :=
  match r with
  | .pc => s.pc
  | .mar => s.mar
  | .mdr => s.mdr
  | .ir => s.ir
  | .gpa => s.gpa
  | .gpb => s.gpb

/-- write(w) of a register: all 16 bits (10_state.md R25, R29). -/
def State.writeReg (s : State) (r : Reg) (w : Word) : State :=
  match r with
  | .pc => s.withPc w
  | .mar => s.withMar w
  | .mdr => s.withMdr w
  | .ir => s.withIr w
  | .gpa => s.withGpa w
  | .gpb => s.withGpb w

/-- reset() of a register: its value of 10_state.md R43 (R29). -/
def State.resetReg (s : State) (r : Reg) : State := s.writeReg r (State.reset.readReg r)

/-! ### Calls -/

/-- What the host may ask (70_reset_and_hazards.md R295; 41_sequencer.md R160). The cancel request is the argument of
`run` (log 10). -/
inductive HostCall where
  | readReg (r : Reg)
  | writeReg (r : Reg) (w : Word)
  | resetReg (r : Reg)
  | readOpcode
  | readOperand
  | memRead (address : Nat)
  | memWrite (address : Nat) (w : Word)
  | setPointer (address : Nat)
  | readAtPointer
  | writeAtPointer (w : Word)
  | writeX (w : Word)
  | writeY (w : Word)
  | setCircuit (c : Circuit)
  | computeZ
  | setFlag (f : Flag) (b : Bool)
  | getFlag (f : Flag)
  | fetch
  | decode
  | execute
  | step
  | run (cancels : List Bool)
  | reset
  deriving DecidableEq, Repr

/-- What the host gets back. -/
inductive Answer where
  | done
  | word (w : Word)
  | byte (b : Byte)
  | flag (b : Bool)
  | error (f : Fault)
  | refused (q : Refusal)
  | run (e : RunEnd)
  deriving DecidableEq, Repr

/-- A command's reply as an answer. -/
def answerOf (p : State × Reply) : State × Answer :=
  match p.2 with
  | .done => (p.1, .done)
  | .error f => (p.1, .error f)
  | .refused q => (p.1, .refused q)

/-- A component operation that can fail: on an error nothing has changed (60_exceptions.md R262). -/
def attempt (r : Result) (s : State) (answer : State → Answer) : State × Answer :=
  match r with
  | .next t => (t, answer t)
  | .fault f => (s, .error f)
  | .refused q => (s, .refused q)

/-- read(address): changes nothing, not even the pointer (20_memory.md R62). -/
def hostRead (address : Nat) (s : State) : State × Answer :=
  if address < Config.memSlots then (s, .word (Memory.read s.mem address))
  else (s, .error (.addressOutOfRange address))

/-- write(address, w): changes that slot and nothing else (20_memory.md R62). -/
def hostWrite (address : Nat) (w : Word) (s : State) : State × Answer :=
  if address < Config.memSlots then (s.withMem (Memory.write s.mem address w), .done)
  else (s, .error (.addressOutOfRange address))

/-- Simulator reset: every piece of state at its value of 10_state.md R43 (70_reset_and_hazards.md R290). -/
def resetAll (_s : State) : State := State.reset

/-- A host call while the phase is Idle (70_reset_and_hazards.md R295). -/
def idleCall (c : HostCall) (s : State) : State × Answer :=
  match c with
  | .readReg r => (s, .word (s.readReg r))
  | .writeReg r w => (s.writeReg r w, .done)
  | .resetReg r => (s.resetReg r, .done)
  | .readOpcode => (s, .byte (opcodeOf s.ir))
  | .readOperand => (s, .byte (operandOf s.ir))
  | .memRead a => hostRead a s
  | .memWrite a w => hostWrite a w s
  | .setPointer a => attempt (Sys2Proof.Machine.setPointer a s) s fun _ => .done
  | .readAtPointer => (s, .word (readPtr s))
  | .writeAtPointer w => (writePtr w s, .done)
  | .writeX w => (Sys2Proof.Machine.writeX w s, .done)
  | .writeY w => (Sys2Proof.Machine.writeY w s, .done)
  | .setCircuit k => (Sys2Proof.Machine.setCircuit k s, .done)
  | .computeZ => attempt (Sys2Proof.Machine.computeZ s) s fun t => .word t.alu.z
  | .setFlag f b => (s.withPsr (s.psr.set f b), .done)
  | .getFlag f => (s, .flag (s.psr.get f))
  | .fetch => answerOf (fetchCommand s)
  | .decode => answerOf (decodeCommand s)
  | .execute => answerOf (executeCommand s)
  | .step => answerOf (stepCommand s)
  | .run cancels => ((runCommand cancels s).1, .run (runCommand cancels s).2)
  | .reset => (resetAll s, .done)

/-- A host call. While a cycle is in flight every call answers Busy and changes nothing (41_sequencer.md R161,
70_reset_and_hazards.md R291; for the component operations DESIGN CHOICE, log 9). -/
def hostCall (c : HostCall) (s : State) : State × Answer :=
  if s.phase = .idle then idleCall c s else (s, .error .busy)

/-! ### The loader -/

/-- LOAD_BASE: the ORG word's operand byte (70_reset_and_hazards.md R293; the spec's decision D19). -/
def Config.loadBase (org : Word) : Byte := operandOf org

/-- ENTRY: the initial PC, equal to LOAD_BASE (70_reset_and_hazards.md R293). -/
def Config.entry (org : Word) : Word := Config.immExtend (Config.loadBase org)

/-- The loader's writes, in ascending slots with no wrap, each a host call; the first that fails ends them
(70_reset_and_hazards.md R293). -/
def loadWords : List Word → Nat → State → State × Answer
  | [], _, s => (s, .done)
  | w :: ws, slot, s =>
    match hostCall (.memWrite slot w) s with
    | (t, .done) => loadWords ws (slot + 1) t
    | (t, e) => (t, e)

/-- load(W): the Words at the ORG address, then PC (70_reset_and_hazards.md R293). It is made of host calls, so while a
cycle is in flight it answers Busy and changes nothing: the spec only assumes that the host does not load then (R295);
DESIGN CHOICE, log 9. -/
def load (p : Program) (s : State) : State × Answer :=
  match loadWords p.words (Config.loadBase p.org).toNat s with
  | (t, .done) => hostCall (.writeReg .pc (Config.entry p.org)) t
  | (t, e) => (t, e)

end Sys2Proof.Machine
end

