-- ==== Sys2Proof/Safety.lean ====
section
/-! DEFINITION. What counts as a legal state and a safe run, in the terms the statements use. -/

namespace Sys2Proof.Machine

/-- ENG.cur is none or the opcode of IR, and then it has a table entry (10_state.md R40). It holds after reset and
after every instruction; only a host write to IR breaks it. -/
def State.curMatchesIr (s : State) : Bool :=
  match s.cur with
  | none => true
  | some op => (op == opcodeOf s.ir) && Config.instrTable.contains op

/-- MAR holds the address of the pointer (20_memory.md R66). It holds after reset and after every instruction; only a
host call breaks it. -/
def State.marIsPtr (s : State) : Bool := s.mar == BitVec.ofNat 16 s.ptr.val

/-- The ALU holds what a program can leave there: circuit Add or Sub (40_alu.md R146), and Z the result of the circuit
on X and Y (40_alu.md R131). -/
def State.aluSettled (s : State) : Bool :=
  (s.alu.circuit == .add || s.alu.circuit == .sub) &&
  (circuitResult s.alu.circuit s.alu.x s.alu.y).map AluResult.r == some s.alu.z

/-- The invariant of a machine that only runs instructions: canonical memory, Idle between instructions
(10_state.md R39), and the three relations above. -/
abbrev State.Inv (s : State) : Prop :=
  Memory.wf s.mem = true ∧ s.phase = .idle ∧ s.curMatchesIr = true ∧ s.marIsPtr = true ∧ s.aluSettled = true

/-- Two states agree on what a program can observe: PC, GPA, GPB, the flags and memory, and the phase is the same
(10_state.md R42). -/
abbrev State.SameVisible (s t : State) : Prop :=
  s.pc = t.pc ∧ s.gpa = t.gpa ∧ s.gpb = t.gpb ∧ s.psr = t.psr ∧ s.mem = t.mem ∧ s.phase = t.phase

/-- `k` instructions run from `s` without a fault: the safe runs. -/
def SafeFor (k : Nat) (s : State) : Prop := ∃ t, Host.Core.run Sys2Proof.core k s = .next t

end Sys2Proof.Machine
end

