-- ==== Sys2Proof/Certificates/Slice0/Obligations.lean ====
section
/-! DEFINITION. The statements for the provers. Each docstring says which rule of spec/ it formalises. The helpers
under `Sys2Proof.Spec` write the rules' arithmetic independently of the model's own functions. Where a statement has a
frame, it is the equation `t = { s with … }`: every field not named keeps its value. -/

namespace Sys2Proof.Spec

open Sys2Proof.Machine

/-- The Words with opcode byte `op` are the instruction `ctor` with the low byte as operand (30_encoding.md R91, R96). -/
def Encodes (op : Byte) (ctor : Byte → Instr) : Prop :=
  ∀ b : Byte, decode (wordOf op b) = .ok (ctor b) ∧ encode (ctor b) = wordOf op b

/-- The opcode bytes with no row in 30_encoding.md R96: 0x00, 0x25 to 0x2D, 0x2E to 0xFE (R100). -/
def Unassigned (op : Byte) : Prop := op.toNat = 0 ∨ (37 ≤ op.toNat ∧ op.toNat ≤ 254)

/-- Z and N as 40_alu.md R131 gives them: is_zero and is_negative of the 16-bit result. -/
def ZeroAndNegative (t : State) : Prop :=
  (t.psr.z = true ↔ t.alu.z.toNat = 0) ∧ (t.psr.n = true ↔ t.alu.z.getLsbD 15 = true)

/-- The exact signed integer does not fit in 16 bits. -/
def DoesNotFit (n : Int) : Prop := n < -32768 ∨ 32767 < n

/-- The overflow condition of Add, as 40_alu.md R135 gives it. -/
def AddOverflows (x y : Word) : Prop :=
  (0 ≤ x.toInt ∧ 0 ≤ y.toInt ∧ 32767 < x.toInt + y.toInt) ∨
  (x.toInt < 0 ∧ y.toInt < 0 ∧ x.toInt + y.toInt < -32768)

/-- What Add leaves of x and y: result, carry, overflow, zero, negative (40_alu.md R131, R133 to R135). -/
def AddDone (x y : Word) (t : State) : Prop :=
  t.alu.x = x ∧ t.alu.y = y ∧ t.alu.circuit = .add ∧
  t.alu.z.toNat = (x.toNat + y.toNat) % 65536 ∧
  (t.psr.c = true ↔ 65535 < x.toNat + y.toNat) ∧
  (t.psr.v = true ↔ AddOverflows x y) ∧
  ZeroAndNegative t

/-- What Sub leaves of x and y (40_alu.md R131, R136, R137; C is borrow by the spec's decision D10). -/
def SubDone (x y : Word) (t : State) : Prop :=
  t.alu.x = x ∧ t.alu.y = y ∧ t.alu.circuit = .sub ∧
  (t.alu.z.toNat : Int) = (x.toInt - y.toInt) % 65536 ∧
  (t.psr.c = true ↔ x.toNat < y.toNat) ∧
  (t.psr.v = true ↔ DoesNotFit (x.toInt - y.toInt)) ∧
  ZeroAndNegative t

/-- The state after the engine's read of the slot a direct operand names (20_memory.md R66). -/
def directRead (b : Byte) (s : State) : State :=
  { s with mar := b.setWidth 16, ptr := slotOf b, mdr := Memory.read s.mem b.toNat }

/-- The state a successful Fetch and Decode leave, in the given phase (41_sequencer.md R162, R164). -/
def fetchedAndDecoded (p : Phase) (h : SlotIndex) (s : State) : State :=
  { s with
    mar := s.pc
    pc := BitVec.ofNat 16 ((s.pc.toNat + 1) % 256)
    ptr := h
    mdr := Memory.read s.mem h
    ir := Memory.read s.mem h
    cur := some (opcodeOf (Memory.read s.mem h))
    phase := p }

/-- PC names the slot `h`. -/
def PcAt (s : State) (h : SlotIndex) : Prop := s.pc.toNat = h.val

/-- Where a store puts its Word, and the register it takes it from; `none` for an instruction that stores nothing
(43_move.md R225 to R228). -/
def storeOf (i : Instr) (s : State) : Option (Nat × Word) :=
  match i with
  | .moveAToDir b => some (b.toNat, s.gpa)
  | .moveBToDir b => some (b.toNat, s.gpb)
  | .moveAToInd b => some ((Memory.read s.mem b.toNat).toNat, s.gpa)
  | .moveBToInd b => some ((Memory.read s.mem b.toNat).toNat, s.gpb)
  | _ => none

/-- The instruction is an ADD, a SUB or a COMPARE: opcode 0x01 to 0x12 (30_encoding.md R96). -/
def UsesAlu (i : Instr) : Prop := 1 ≤ i.opcode.toNat ∧ i.opcode.toNat ≤ 18

/-- The instruction is a JMP or a branch: opcode 0x1B to 0x24 (30_encoding.md R96). -/
def MayWritePc (i : Instr) : Prop := 27 ≤ i.opcode.toNat ∧ i.opcode.toNat ≤ 36

/-- The instruction reads or writes a memory slot: the direct and indirect forms (20_memory.md R67). -/
def UsesMemory (i : Instr) : Prop :=
  i.opcode.toNat ∈ [0x03, 0x04, 0x09, 0x0A, 0x0F, 0x10, 0x15, 0x16, 0x17, 0x18, 0x19, 0x1A, 0x1C]

/-- The instruction has GPA as its destination (10_state.md R22, 30_encoding.md R96). -/
def WritesGpa (i : Instr) : Prop := i.opcode.toNat ∈ [0x01, 0x03, 0x05, 0x07, 0x09, 0x0B, 0x13, 0x15]

/-- The instruction has GPB as its destination (10_state.md R22, 30_encoding.md R96). -/
def WritesGpb (i : Instr) : Prop := i.opcode.toNat ∈ [0x02, 0x04, 0x06, 0x08, 0x0A, 0x0C, 0x14, 0x16]

end Sys2Proof.Spec

open Sys2Proof Sys2Proof.Machine Sys2Proof.Spec

/-! ### Encoding and decoding -/

/-- R102, for every row and every operand byte: decoding an encoded instruction gives it back, and the Word's two views
are its opcode byte and its operand byte. -/
def Obligations.DecodeOfEncodeIsTheInstruction : Prop :=
  ∀ i : Instr, decode (encode i) = .ok i ∧ opcodeOf (encode i) = i.opcode ∧ operandOf (encode i) = i.operand

/-- Encoding a decoded Word gives the Word back, so two different Words never decode to one instruction; and what the
decoder accepts has an entry in the instruction-set table (R90, R91, R164). That this holds of the operand bytes the
hardware ignores (R97, R98) too is the model's choice (log 14): every constructor of Instr carries its byte. -/
def Obligations.EncodeOfDecodeIsTheWord : Prop :=
  ∀ (w : Word) (i : Instr), decode w = .ok i → encode i = w ∧ i.wellFormed = true

/-- R100: every opcode byte not in the table is illegal; the decoder names it, and Decode raises InvalidInstruction for
it and changes nothing. -/
def Obligations.UnassignedOpcodesRaiseInvalidInstruction : Prop :=
  (∀ w : Word, decode w = .error (.invalidInstruction (opcodeOf w)) ↔ Unassigned (opcodeOf w)) ∧
  ∀ s : State, s.phase = .idle → Unassigned (opcodeOf s.mdr) →
    decodeCommand s = (s, .error (.invalidInstruction (opcodeOf s.mdr)))

/-- From R96, row by row (the bytes are the spec's decision D1): each opcode byte is its instruction, whatever the
operand byte. -/
def Obligations.OpcodeMapIsTheSpecsTable : Prop :=
  Encodes 0x01#8 .addImmA ∧ Encodes 0x02#8 .addImmB ∧ Encodes 0x03#8 .addDirA ∧ Encodes 0x04#8 .addDirB ∧
  Encodes 0x05#8 .addBA ∧ Encodes 0x06#8 .addAB ∧ Encodes 0x07#8 .subImmA ∧ Encodes 0x08#8 .subImmB ∧
  Encodes 0x09#8 .subDirA ∧ Encodes 0x0A#8 .subDirB ∧ Encodes 0x0B#8 .subBA ∧ Encodes 0x0C#8 .subAB ∧
  Encodes 0x0D#8 .compareImmA ∧ Encodes 0x0E#8 .compareImmB ∧ Encodes 0x0F#8 .compareDirA ∧
  Encodes 0x10#8 .compareDirB ∧ Encodes 0x11#8 .compareBA ∧ Encodes 0x12#8 .compareAB ∧
  Encodes 0x13#8 .moveImmA ∧ Encodes 0x14#8 .moveImmB ∧ Encodes 0x15#8 .moveDirToA ∧ Encodes 0x16#8 .moveDirToB ∧
  Encodes 0x17#8 .moveAToDir ∧ Encodes 0x18#8 .moveBToDir ∧ Encodes 0x19#8 .moveAToInd ∧ Encodes 0x1A#8 .moveBToInd ∧
  Encodes 0x1B#8 .jmpImm ∧ Encodes 0x1C#8 .jmpDir ∧ Encodes 0x1D#8 .bcs ∧ Encodes 0x1E#8 .bcc ∧
  Encodes 0x1F#8 .bns ∧ Encodes 0x20#8 .bnc ∧ Encodes 0x21#8 .bzs ∧ Encodes 0x22#8 .bzc ∧
  Encodes 0x23#8 .bvs ∧ Encodes 0x24#8 .bvc ∧ Encodes 0xFF#8 .halt

/-- A few Words of 95_test_vectors.md section 2.8, written out bit by bit. -/
def Obligations.WordsOfTheSpecDecode : Prop :=
  decode 0b0000000100000101#16 = .ok (.addImmA 0x05#8) ∧
  decode 0b0000101100000000#16 = .ok (.subBA 0x00#8) ∧
  decode 0b0000111100100001#16 = .ok (.compareDirA 0x21#8) ∧
  decode 0b0001100100110000#16 = .ok (.moveAToInd 0x30#8) ∧
  decode 0b0001101100000010#16 = .ok (.jmpImm 0x02#8) ∧
  decode 0b0010010011111111#16 = .ok (.bvc 0xFF#8) ∧
  decode 0b1111111111111111#16 = .ok (.halt 0xFF#8) ∧
  decode 0b0010110101111111#16 = .error (.invalidInstruction 0x2D#8)

/-! ### The cycles -/

/-- R160's `step()`: with the engine Idle and PC at a slot whose Word decodes to `i`, a step is exec of `i` on the state
Fetch and Decode leave, Execute's phase around it and Idle after it; an error of exec is the step's error. -/
def Obligations.StepRunsTheDecodedInstruction : Prop :=
  ∀ (s : State) (h : SlotIndex) (i : Instr), s.phase = .idle → PcAt s h → decode (Memory.read s.mem h) = .ok i →
    (∀ t, exec i (fetchedAndDecoded .executing h s) = .next t → step s = .next { t with phase := .idle }) ∧
    (∀ f, exec i (fetchedAndDecoded .executing h s) = .fault f → step s = .fault f)

/-- R162: a successful Fetch. -/
def Obligations.FetchReadsTheSlotAtPcAndAdvances : Prop :=
  ∀ (s : State) (h : SlotIndex), s.phase = .idle → PcAt s h →
    fetchCommand s =
      ({ s with
          mar := s.pc
          pc := BitVec.ofNat 16 ((s.pc.toNat + 1) % 256)
          ptr := h
          mdr := Memory.read s.mem h }, .done)

/-- R163: a Fetch with u(PC) >= 256 raises and changes nothing, and fails again when repeated; nothing else makes a
Fetch fail. -/
def Obligations.FetchFailsExactlyOnABadPc : Prop :=
  (∀ s : State, s.phase = .idle → 256 ≤ s.pc.toNat →
    fetchCommand s = (s, .error (.addressOutOfRange s.pc.toNat)) ∧
    fetchCommand (fetchCommand s).1 = (s, .error (.addressOutOfRange s.pc.toNat))) ∧
  ∀ s : State, s.phase = .idle → s.pc.toNat < 256 → (fetchCommand s).2 = .done

/-- R164: a successful Decode loads IR and ENG.cur from MDR and changes nothing else; the look-up succeeds exactly for
the opcode bytes 0x01 to 0x24 and 0xFF, and raises InvalidInstruction for every other. -/
def Obligations.DecodeLoadsIrAndCurrentInstruction : Prop :=
  ∀ s : State, s.phase = .idle →
    (((1 ≤ (opcodeOf s.mdr).toNat ∧ (opcodeOf s.mdr).toNat ≤ 36) ∨ (opcodeOf s.mdr).toNat = 255) →
      decodeCommand s = ({ s with ir := s.mdr, cur := some (opcodeOf s.mdr) }, .done)) ∧
    (¬ ((1 ≤ (opcodeOf s.mdr).toNat ∧ (opcodeOf s.mdr).toNat ≤ 36) ∨ (opcodeOf s.mdr).toNat = 255) →
      (decodeCommand s).2 = .error (.invalidInstruction (opcodeOf s.mdr)))

/-- R165: within a logical instruction a Decode error leaves IR and ENG.cur as they were, and PC, MAR, MDR as Fetch left
them: PC already points past the bad Word. A Decode repeated with the same MDR fails again. -/
def Obligations.DecodeErrorKeepsFetchAndOldIr : Prop :=
  ∀ (s : State) (h : SlotIndex), s.phase = .idle → PcAt s h → Unassigned (opcodeOf (Memory.read s.mem h)) →
    let u := { s with
      mar := s.pc
      pc := BitVec.ofNat 16 ((s.pc.toNat + 1) % 256)
      ptr := h
      mdr := Memory.read s.mem h }
    stepCommand s = (u, .error (.invalidInstruction (opcodeOf (Memory.read s.mem h)))) ∧
    decodeCommand u = (u, .error (.invalidInstruction (opcodeOf (Memory.read s.mem h))))

/-- From R166 and R167 (that the dispatch reads IR is the spec's decision D15): Execute dispatches on IR.opcode with
IR.operand, whatever ENG.cur holds, and does not clear IR; an IR with no dispatch entry raises InvalidInstruction
and changes nothing. -/
def Obligations.ExecuteDispatchesOnIr : Prop :=
  ∀ s : State, s.phase = .idle →
    (∀ i, decode s.ir = .ok i →
      (∀ t, exec i { s with phase := .executing } = .next t → executeCommand s = ({ t with phase := .idle }, .done)) ∧
      (∀ f, exec i { s with phase := .executing } = .fault f → executeCommand s = (s, .error f))) ∧
    (Unassigned (opcodeOf s.ir) → executeCommand s = (s, .error (.invalidInstruction (opcodeOf s.ir)))) ∧
    (executeCommand s).1.ir = s.ir

/-- R161: a command that arrives while the phase is not Idle raises Busy and changes nothing. -/
def Obligations.BusyRejectsEveryCommand : Prop :=
  ∀ s : State, s.phase ≠ .idle →
    fetchCommand s = (s, .error .busy) ∧ decodeCommand s = (s, .error .busy) ∧
    executeCommand s = (s, .error .busy) ∧ step s = .fault .busy ∧
    ∀ cancels, runCommand cancels s = (s, .error .busy)

/-- From R168 (the cycle as the unit that is undone is the spec's decision D21): an Execute that raises leaves the state
the preceding Fetch and Decode committed, PC advanced and IR loaded; and only SetPtr can raise in a micro-sequence. -/
def Obligations.ExecuteErrorKeepsFetchAndDecode : Prop :=
  (∀ (s : State) (h : SlotIndex) (i : Instr) (f : Fault), s.phase = .idle → PcAt s h →
    decode (Memory.read s.mem h) = .ok i → exec i (fetchedAndDecoded .executing h s) = .fault f →
    stepCommand s = (fetchedAndDecoded .idle h s, .error f)) ∧
  ∀ (i : Instr) (s : State) (f : Fault), exec i s = .fault f → ∃ a, 256 ≤ a ∧ f = .addressOutOfRange a

/-- From R262 (the cycle as the unit is the spec's decision D21): every host call but the sequence `step` that answers
an error leaves the state bit for bit as it was; and of the sequence, only the cycle that raised is undone: the
cycles that completed before it stand. -/
def Obligations.AnErrorUndoesItsCycleAlone : Prop :=
  (∀ (c : HostCall) (s t : State) (f : Fault), c ≠ .step → hostCall c s = (t, .error f) → t = s) ∧
  ∀ (s t : State) (f : Fault), stepCommand s = (t, .error f) →
    (fetchCommand s = (s, .error f) ∧ t = s) ∨
    (fetchCommand s = (t, .done) ∧ decodeCommand t = (t, .error f)) ∨
    (fetchDecode s = (t, .done) ∧ executeCommand t = (t, .error f))

/-- From R261 and R270: exactly when a step raises, and what: Busy before anything; then Fetch's error; then Decode's;
then, for the two indirect MOVEs only, Execute's. DivisionByZero is never raised. -/
def Obligations.StepFaultsExactlyWhenTheSpecSays : Prop :=
  ∀ (s : State) (f : Fault), step s = .fault f ↔
    (s.phase ≠ .idle ∧ f = .busy) ∨
    (s.phase = .idle ∧ 256 ≤ s.pc.toNat ∧ f = .addressOutOfRange s.pc.toNat) ∨
    (s.phase = .idle ∧ s.pc.toNat < 256 ∧
      let w := Memory.read s.mem s.pc.toNat
      (Unassigned (opcodeOf w) ∧ f = .invalidInstruction (opcodeOf w)) ∨
      ((opcodeOf w = 0x19#8 ∨ opcodeOf w = 0x1A#8) ∧
        256 ≤ (Memory.read s.mem (operandOf w).toNat).toNat ∧
        f = .addressOutOfRange (Memory.read s.mem (operandOf w).toNat).toNat))

/-- No instruction is refused, in any state. -/
def Obligations.NoInstructionIsRefused : Prop :=
  (∀ (i : Instr) (s : State) (q : Refusal), exec i s ≠ .refused q) ∧ ∀ (s : State) (q : Refusal), step s ≠ .refused q

/-- From R146 (the spec's decision D13): no instruction selects Mul or Div, and no instruction raises DivisionByZero;
the two circuits are reached through the block interface. -/
def Obligations.NoInstructionReachesMulOrDiv : Prop :=
  (∀ (i : Instr) (s t : State), exec i s = .next t →
    t.alu.circuit = .add ∨ t.alu.circuit = .sub ∨ t.alu = s.alu) ∧
  (∀ (i : Instr) (s : State), exec i s ≠ .fault .divisionByZero) ∧
  (∀ s : State, step s ≠ .fault .divisionByZero) ∧
  ∀ s : State, s.phase = .idle →
    (hostCall (.setCircuit .mul) s).1.alu.circuit = .mul ∧ (hostCall (.setCircuit .div) s).1.alu.circuit = .div

/-! ### The run loop -/

/-- From R160, R172, R175: running and stepping agree. However a run ends, some number of steps from the same state
gives the state it ends in, or the state whose step gives the error it ends with. That the cancel request is a list of
samples, and the clause about `running`, its being used up, are the model's choice (log 10). -/
def Obligations.RunAgreesWithStepping : Prop :=
  ∀ (cancels : List Bool) (s t : State), s.phase = .idle →
    (runCommand cancels s = (t, .halted) →
      ∃ k, k ≤ cancels.length ∧ Host.Core.run core k s = .next t ∧ opcodeOf t.ir = 0xFF#8) ∧
    (runCommand cancels s = (t, .cancelled) → ∃ k, k < cancels.length ∧ Host.Core.run core k s = .next t) ∧
    (runCommand cancels s = (t, .running) → Host.Core.run core cancels.length s = .next t) ∧
    (∀ f, runCommand cancels s = (t, .error f) →
      ∃ k u, k < cancels.length ∧ Host.Core.run core k s = .next u ∧ stepCommand u = (t, .error f)) ∧
    ∀ q, runCommand cancels s ≠ (t, .refused q)

/-- R170: a request sampled at the top of an iteration ends the run with the state exactly as the last completed
instruction left it, and a later run continues from there. -/
def Obligations.CancellationFallsBetweenInstructions : Prop :=
  ∀ (before after : List Bool) (s t : State), s.phase = .idle →
    runCommand before s = (t, .running) →
    runCommand (before ++ true :: after) s = (t, .cancelled) ∧
    runCommand (before ++ after) s = runCommand after t

/-- R172: when Decode has put a HALT in IR the run returns Halted without Execute; an Execute by hand changes nothing
more; and HALT does not latch: the next Fetch reads the slot after it. -/
def Obligations.RunHaltsAfterDecodingHalt : Prop :=
  ∀ (s : State) (h : SlotIndex) (cancels : List Bool), s.phase = .idle → PcAt s h →
    opcodeOf (Memory.read s.mem h) = 0xFF#8 →
    runCommand (false :: cancels) s = (fetchedAndDecoded .idle h s, .halted) ∧
    executeCommand (fetchedAndDecoded .idle h s) = (fetchedAndDecoded .idle h s, .done) ∧
    stepCommand s = (fetchedAndDecoded .idle h s, .done) ∧
    (fetchCommand (fetchedAndDecoded .idle h s)).1.mdr = Memory.read s.mem ((s.pc.toNat + 1) % 256)

/-- From R171 (the spec's decision D17): a cycle that raises inside run ends the run with that error and the state the
failed cycle's rollback left; no skip, no retry. -/
def Obligations.RunEndsAtTheFirstError : Prop :=
  ∀ (s t : State) (f : Fault) (cancels : List Bool), s.phase = .idle → stepCommand s = (t, .error f) →
    runCommand (false :: cancels) s = (t, .error f)

/-! ### The ALU -/

/-- R130: the three loads change their latch and nothing else. -/
def Obligations.AluLoadsChangeOneLatch : Prop :=
  ∀ (s : State) (w : Word) (k : Circuit), s.phase = .idle →
    hostCall (.writeX w) s = ({ s with alu := { s.alu with x := w } }, .done) ∧
    hostCall (.writeY w) s = ({ s with alu := { s.alu with y := w } }, .done) ∧
    hostCall (.setCircuit k) s = ({ s with alu := { s.alu with circuit := k } }, .done)

/-- R131: compute_z stores the result in Z, answers it, writes all four flags and changes nothing else; if the circuit
raises, nothing changes. -/
def Obligations.ComputeZWritesResultAndAllFlags : Prop :=
  ∀ s : State, s.phase = .idle →
    (∀ a, circuitResult s.alu.circuit s.alu.x s.alu.y = some a →
      ∃ t, hostCall .computeZ s = (t, .word a.r) ∧ t.alu.z = a.r ∧ t.psr.c = a.c ∧ t.psr.v = a.v ∧
        ZeroAndNegative t ∧ t = { s with alu := { s.alu with z := t.alu.z }, psr := t.psr }) ∧
    (circuitResult s.alu.circuit s.alu.x s.alu.y = none → hostCall .computeZ s = (s, .error .divisionByZero))

/-- R133, R134, R135: the Add circuit. -/
def Obligations.AddCircuitResultCarryOverflow : Prop :=
  ∀ x y : Word, ∃ a, circuitResult .add x y = some a ∧
    a.r.toNat = (x.toNat + y.toNat) % 65536 ∧ (a.r.toNat : Int) = (x.toInt + y.toInt) % 65536 ∧
    (a.c = true ↔ 65535 < x.toNat + y.toNat) ∧
    (a.v = true ↔ AddOverflows x y)

/-- From R135's last sentence, which the spec marks derived: Add overflows exactly when the signed sum does not fit, and
never on operands of opposite sign. -/
def Obligations.AddOverflowsExactlyWhenTheSumDoesNotFit : Prop :=
  ∀ x y : Word, ∃ a, circuitResult .add x y = some a ∧
    (a.v = true ↔ DoesNotFit (x.toInt + y.toInt)) ∧ (¬ (0 ≤ x.toInt ↔ 0 ≤ y.toInt) → a.v = false)

/-- R136: the Sub circuit's result and overflow. -/
def Obligations.SubCircuitResultOverflow : Prop :=
  ∀ x y : Word, ∃ a, circuitResult .sub x y = some a ∧
    (a.r.toNat : Int) = (x.toInt - y.toInt) % 65536 ∧ (a.v = true ↔ DoesNotFit (x.toInt - y.toInt))

/-- From R137 (the spec's decision D10): the Sub circuit's carry is borrow; the unsigned difference is then the result
less 65536, and else the result itself. -/
def Obligations.SubCircuitCarryIsBorrow : Prop :=
  ∀ x y : Word, ∃ a, circuitResult .sub x y = some a ∧ (a.c = true ↔ x.toNat < y.toNat) ∧
    (x.toNat : Int) - y.toNat = a.r.toNat - (if a.c = true then 65536 else 0)

/-- From R138, R139, R140 (the spec's decision D11): the Mul circuit. -/
def Obligations.MulCircuitResultCarryOverflow : Prop :=
  ∀ x y : Word, ∃ a, circuitResult .mul x y = some a ∧
    (a.r.toNat : Int) = (x.toInt * y.toInt) % 65536 ∧ a.r.toNat = (x.toNat * y.toNat) % 65536 ∧
    (a.c = true ↔ 65535 < x.toNat * y.toNat) ∧ (a.v = true ↔ DoesNotFit (x.toInt * y.toInt))

/-- R141: compute_z with circuit Div and Y = 0 raises DivisionByZero and changes nothing. -/
def Obligations.DivisionByZeroRaises : Prop :=
  ∀ s : State, s.phase = .idle → s.alu.circuit = .div → s.alu.y.toNat = 0 →
    hostCall .computeZ s = (s, .error .divisionByZero)

/-- From R142, R143 (the spec's decision D12): the Div circuit on a divisor that is not 0 gives the signed quotient
rounded toward zero, carry never, overflow for -32768 / -1 alone. -/
def Obligations.DivCircuitQuotientOverflow : Prop :=
  ∀ x y : Word, y.toNat ≠ 0 →
    ∃ (a : AluResult) (q : Int), circuitResult .div x y = some a ∧
      q.natAbs = x.toInt.natAbs / y.toInt.natAbs ∧
      ((0 ≤ x.toInt ↔ 0 ≤ y.toInt) → 0 ≤ q) ∧ (¬ (0 ≤ x.toInt ↔ 0 ≤ y.toInt) → q ≤ 0) ∧
      (a.r.toNat : Int) = q % 65536 ∧ a.c = false ∧ (a.v = true ↔ DoesNotFit q) ∧
      (a.v = true ↔ x = 0x8000#16 ∧ y = 0xFFFF#16)

/-! ### ADD, SUB, COMPARE -/

/-- R191 to R196: the six ADD forms complete in every state, with the sum in the destination, all four flags written,
and nothing else changed but what the operand form reads through. -/
def Obligations.AddFormsAddAndWriteAllFlags : Prop :=
  (Encodes 0x01#8 .addImmA ∧ Encodes 0x02#8 .addImmB ∧ Encodes 0x03#8 .addDirA ∧ Encodes 0x04#8 .addDirB ∧
    Encodes 0x05#8 .addBA ∧ Encodes 0x06#8 .addAB) ∧
  ∀ (s : State) (b : Byte),
    (∃ t, exec (.addImmA b) s = .next t ∧ AddDone s.gpa (b.setWidth 16) t ∧
      t = { s with alu := t.alu, psr := t.psr, gpa := t.alu.z }) ∧
    (∃ t, exec (.addImmB b) s = .next t ∧ AddDone s.gpb (b.setWidth 16) t ∧
      t = { s with alu := t.alu, psr := t.psr, gpb := t.alu.z }) ∧
    (∃ t, exec (.addDirA b) s = .next t ∧ AddDone s.gpa (Memory.read s.mem b.toNat) t ∧
      t = { directRead b s with alu := t.alu, psr := t.psr, gpa := t.alu.z }) ∧
    (∃ t, exec (.addDirB b) s = .next t ∧ AddDone s.gpb (Memory.read s.mem b.toNat) t ∧
      t = { directRead b s with alu := t.alu, psr := t.psr, gpb := t.alu.z }) ∧
    (∃ t, exec (.addBA b) s = .next t ∧ AddDone s.gpa s.gpb t ∧
      t = { s with alu := t.alu, psr := t.psr, gpa := t.alu.z }) ∧
    (∃ t, exec (.addAB b) s = .next t ∧ AddDone s.gpb s.gpa t ∧
      t = { s with alu := t.alu, psr := t.psr, gpb := t.alu.z })

/-- From R197 to R202 (carry as borrow is the spec's decision D10): the six SUB forms complete in every state; the
destination becomes destination - source. -/
def Obligations.SubFormsSubtractAndWriteAllFlags : Prop :=
  (Encodes 0x07#8 .subImmA ∧ Encodes 0x08#8 .subImmB ∧ Encodes 0x09#8 .subDirA ∧ Encodes 0x0A#8 .subDirB ∧
    Encodes 0x0B#8 .subBA ∧ Encodes 0x0C#8 .subAB) ∧
  ∀ (s : State) (b : Byte),
    (∃ t, exec (.subImmA b) s = .next t ∧ SubDone s.gpa (b.setWidth 16) t ∧
      t = { s with alu := t.alu, psr := t.psr, gpa := t.alu.z }) ∧
    (∃ t, exec (.subImmB b) s = .next t ∧ SubDone s.gpb (b.setWidth 16) t ∧
      t = { s with alu := t.alu, psr := t.psr, gpb := t.alu.z }) ∧
    (∃ t, exec (.subDirA b) s = .next t ∧ SubDone s.gpa (Memory.read s.mem b.toNat) t ∧
      t = { directRead b s with alu := t.alu, psr := t.psr, gpa := t.alu.z }) ∧
    (∃ t, exec (.subDirB b) s = .next t ∧ SubDone s.gpb (Memory.read s.mem b.toNat) t ∧
      t = { directRead b s with alu := t.alu, psr := t.psr, gpb := t.alu.z }) ∧
    (∃ t, exec (.subBA b) s = .next t ∧ SubDone s.gpa s.gpb t ∧
      t = { s with alu := t.alu, psr := t.psr, gpa := t.alu.z }) ∧
    (∃ t, exec (.subAB b) s = .next t ∧ SubDone s.gpb s.gpa t ∧
      t = { s with alu := t.alu, psr := t.psr, gpb := t.alu.z })

/-- From R203 to R208 (carry as borrow is the spec's decision D10): the six COMPARE forms complete in every state; the
flags are those of register - source, no general register is written. -/
def Obligations.CompareFormsWriteFlagsAndNoRegister : Prop :=
  (Encodes 0x0D#8 .compareImmA ∧ Encodes 0x0E#8 .compareImmB ∧ Encodes 0x0F#8 .compareDirA ∧
    Encodes 0x10#8 .compareDirB ∧ Encodes 0x11#8 .compareBA ∧ Encodes 0x12#8 .compareAB) ∧
  ∀ (s : State) (b : Byte),
    (∃ t, exec (.compareImmA b) s = .next t ∧ SubDone s.gpa (b.setWidth 16) t ∧
      t = { s with alu := t.alu, psr := t.psr }) ∧
    (∃ t, exec (.compareImmB b) s = .next t ∧ SubDone s.gpb (b.setWidth 16) t ∧
      t = { s with alu := t.alu, psr := t.psr }) ∧
    (∃ t, exec (.compareDirA b) s = .next t ∧ SubDone s.gpa (Memory.read s.mem b.toNat) t ∧
      t = { directRead b s with alu := t.alu, psr := t.psr }) ∧
    (∃ t, exec (.compareDirB b) s = .next t ∧ SubDone s.gpb (Memory.read s.mem b.toNat) t ∧
      t = { directRead b s with alu := t.alu, psr := t.psr }) ∧
    (∃ t, exec (.compareBA b) s = .next t ∧ SubDone s.gpa s.gpb t ∧ t = { s with alu := t.alu, psr := t.psr }) ∧
    (∃ t, exec (.compareAB b) s = .next t ∧ SubDone s.gpb s.gpa t ∧ t = { s with alu := t.alu, psr := t.psr })

/-- From R203 and R252, both marked derived in the spec: after COMPARE B,A the branches test the relations of GPA
(register) and GPB (source), the unsigned ones through the borrow (decision D10); N different from V is signed less. -/
def Obligations.CompareThenBranchTestsTheRelation : Prop :=
  ∀ (s : State) (b d : Byte), ∃ t, exec (.compareBA b) s = .next t ∧
    (s.gpa = s.gpb → exec (.bzs d) t = .next { t with pc := d.setWidth 16 } ∧ exec (.bzc d) t = .next t) ∧
    (s.gpa ≠ s.gpb → exec (.bzs d) t = .next t ∧ exec (.bzc d) t = .next { t with pc := d.setWidth 16 }) ∧
    (s.gpa.toNat < s.gpb.toNat →
      exec (.bcs d) t = .next { t with pc := d.setWidth 16 } ∧ exec (.bcc d) t = .next t) ∧
    (s.gpb.toNat ≤ s.gpa.toNat →
      exec (.bcs d) t = .next t ∧ exec (.bcc d) t = .next { t with pc := d.setWidth 16 }) ∧
    ((s.gpa - s.gpb).msb = true → exec (.bns d) t = .next { t with pc := d.setWidth 16 }) ∧
    (DoesNotFit (s.gpa.toInt - s.gpb.toInt) → exec (.bvs d) t = .next { t with pc := d.setWidth 16 }) ∧
    (t.psr.n ≠ t.psr.v ↔ s.gpa.toInt < s.gpb.toInt)

/-! ### MOVE -/

/-- R221 to R224: the four MOVEs into a register complete in every state and write no flag. -/
def Obligations.MovesIntoARegister : Prop :=
  (Encodes 0x13#8 .moveImmA ∧ Encodes 0x14#8 .moveImmB ∧ Encodes 0x15#8 .moveDirToA ∧ Encodes 0x16#8 .moveDirToB) ∧
  ∀ (s : State) (b : Byte),
    exec (.moveImmA b) s = .next { s with gpa := b.setWidth 16 } ∧
    exec (.moveImmB b) s = .next { s with gpb := b.setWidth 16 } ∧
    exec (.moveDirToA b) s = .next { directRead b s with gpa := Memory.read s.mem b.toNat } ∧
    exec (.moveDirToB b) s = .next { directRead b s with gpb := Memory.read s.mem b.toNat }

/-- R225, R226: the direct stores complete in every state; the slot named by the operand byte receives the register,
every other slot reads as before, and MAR, MDR, MEM.ptr are left as the rules say. -/
def Obligations.DirectStoresWriteOneSlot : Prop :=
  (Encodes 0x17#8 .moveAToDir ∧ Encodes 0x18#8 .moveBToDir) ∧
  ∀ (s : State) (b : Byte), Memory.wf s.mem = true →
    (∃ t, exec (.moveAToDir b) s = .next t ∧
      (∀ a, Memory.read t.mem a = if a = b.toNat then s.gpa else Memory.read s.mem a) ∧
      t = { s with mar := b.setWidth 16, mdr := s.gpa, ptr := slotOf b, mem := t.mem }) ∧
    (∃ t, exec (.moveBToDir b) s = .next t ∧
      (∀ a, Memory.read t.mem a = if a = b.toNat then s.gpb else Memory.read s.mem a) ∧
      t = { s with mar := b.setWidth 16, mdr := s.gpb, ptr := slotOf b, mem := t.mem })

/-- R227, R228: the indirect stores. With p the pointer Word MEM[a]: below 256 they complete, slot p receives the
register and every other slot (the pointer slot among them unless p = a) reads as before; at 256 or more they raise
AddressOutOfRange(p), all 16 bits of p being the address, and the Execute cycle changes nothing. -/
def Obligations.IndirectStoresWriteThroughThePointer : Prop :=
  (Encodes 0x19#8 .moveAToInd ∧ Encodes 0x1A#8 .moveBToInd) ∧
  ∀ (s : State) (b : Byte), Memory.wf s.mem = true →
    (∀ p : SlotIndex, (Memory.read s.mem b.toNat).toNat = p.val →
      (∃ t, exec (.moveAToInd b) s = .next t ∧
        (∀ a, Memory.read t.mem a = if a = p.val then s.gpa else Memory.read s.mem a) ∧
        t = { s with mar := Memory.read s.mem b.toNat, mdr := s.gpa, ptr := p, mem := t.mem }) ∧
      (∃ t, exec (.moveBToInd b) s = .next t ∧
        (∀ a, Memory.read t.mem a = if a = p.val then s.gpb else Memory.read s.mem a) ∧
        t = { s with mar := Memory.read s.mem b.toNat, mdr := s.gpb, ptr := p, mem := t.mem })) ∧
    (256 ≤ (Memory.read s.mem b.toNat).toNat →
      exec (.moveAToInd b) s = .fault (.addressOutOfRange (Memory.read s.mem b.toNat).toNat) ∧
      exec (.moveBToInd b) s = .fault (.addressOutOfRange (Memory.read s.mem b.toNat).toNat) ∧
      (s.phase = .idle → s.ir = wordOf 0x19#8 b ∨ s.ir = wordOf 0x1A#8 b →
        executeCommand s = (s, .error (.addressOutOfRange (Memory.read s.mem b.toNat).toNat))))

/-! ### JMP, branches, HALT -/

/-- R241: JMP #t completes in every state, writes the zero-extended operand byte into PC and changes nothing else. -/
def Obligations.JmpImmediateWritesPc : Prop :=
  Encodes 0x1B#8 .jmpImm ∧ ∀ (s : State) (b : Byte), exec (.jmpImm b) s = .next { s with pc := b.setWidth 16 }

/-- From R242 (the spec's decision D8): JMP a completes in every state and writes all 16 bits of MEM[a] into PC; if that
is 256 or more the next Fetch raises and leaves PC at the bad value. -/
def Obligations.JmpDirectWritesTheWordIntoPc : Prop :=
  Encodes 0x1C#8 .jmpDir ∧
  ∀ (s : State) (b : Byte),
    exec (.jmpDir b) s = .next { directRead b s with pc := Memory.read s.mem b.toNat } ∧
    (s.phase = .idle → 256 ≤ (Memory.read s.mem b.toNat).toNat →
      fetchCommand { directRead b s with pc := Memory.read s.mem b.toNat } =
        ({ directRead b s with pc := Memory.read s.mem b.toNat },
          .error (.addressOutOfRange (Memory.read s.mem b.toNat).toNat)))

/-- R243 to R250: each branch completes in every state, writes PC when its one flag has its sense, and else changes
nothing. -/
def Obligations.BranchesTestOneFlag : Prop :=
  (Encodes 0x1D#8 .bcs ∧ Encodes 0x1E#8 .bcc ∧ Encodes 0x1F#8 .bns ∧ Encodes 0x20#8 .bnc ∧
    Encodes 0x21#8 .bzs ∧ Encodes 0x22#8 .bzc ∧ Encodes 0x23#8 .bvs ∧ Encodes 0x24#8 .bvc) ∧
  ∀ (s : State) (b : Byte),
    exec (.bcs b) s = .next (if s.psr.c = true then { s with pc := b.setWidth 16 } else s) ∧
    exec (.bcc b) s = .next (if s.psr.c = false then { s with pc := b.setWidth 16 } else s) ∧
    exec (.bns b) s = .next (if s.psr.n = true then { s with pc := b.setWidth 16 } else s) ∧
    exec (.bnc b) s = .next (if s.psr.n = false then { s with pc := b.setWidth 16 } else s) ∧
    exec (.bzs b) s = .next (if s.psr.z = true then { s with pc := b.setWidth 16 } else s) ∧
    exec (.bzc b) s = .next (if s.psr.z = false then { s with pc := b.setWidth 16 } else s) ∧
    exec (.bvs b) s = .next (if s.psr.v = true then { s with pc := b.setWidth 16 } else s) ∧
    exec (.bvc b) s = .next (if s.psr.v = false then { s with pc := b.setWidth 16 } else s)

/-- From R251 (the spec's decision D16): HALT given to Execute moves no data, whatever its operand byte, and a run stops
as soon as Decode has placed it in IR. -/
def Obligations.HaltMovesNoData : Prop :=
  Encodes 0xFF#8 .halt ∧
  (∀ (s : State) (b : Byte), exec (.halt b) s = .next s) ∧
  (∀ (s : State) (b : Byte), s.phase = .idle → s.ir = wordOf 0xFF#8 b → executeCommand s = (s, .done)) ∧
  ∀ (s t : State) (cancels : List Bool), s.phase = .idle → fetchDecode s = (t, .done) → opcodeOf t.ir = 0xFF#8 →
    runCommand (false :: cancels) s = (t, .halted)

/-! ### Frames and whole-machine rules -/

/-- The frame of every instruction, by what it may touch (R22, R31, R61, R67, R190, R220, R240): a general register only
where it is the destination; the flags and the ALU only in ADD, SUB, COMPARE; PC only in JMP and branches; MAR, MDR
and MEM.ptr only in the direct and indirect forms; IR, ENG.phase and ENG.cur never. -/
def Obligations.EachInstructionsFrame : Prop :=
  ∀ (i : Instr) (s t : State), exec i s = .next t →
    (¬ WritesGpa i → t.gpa = s.gpa) ∧ (¬ WritesGpb i → t.gpb = s.gpb) ∧
    (¬ UsesAlu i → t.alu = s.alu ∧ t.psr = s.psr) ∧
    (¬ MayWritePc i → t.pc = s.pc) ∧
    (¬ UsesMemory i → t.mar = s.mar ∧ t.mdr = s.mdr ∧ t.ptr = s.ptr) ∧
    t.ir = s.ir ∧ t.phase = s.phase ∧ t.cur = s.cur

/-- The memory frame of every instruction (R61, R67): a form that stores nothing leaves every slot as it was; a store
puts its register in the slot `storeOf` computes and leaves every other slot as it was. -/
def Obligations.EachInstructionsMemoryFrame : Prop :=
  ∀ (i : Instr) (s t : State), Memory.wf s.mem = true → exec i s = .next t →
    (storeOf i s = none → ∀ a, Memory.read t.mem a = Memory.read s.mem a) ∧
    ∀ a w, storeOf i s = some (a, w) → a < 256 ∧ Memory.read t.mem a = w ∧
      ∀ a', a' ≠ a → Memory.read t.mem a' = Memory.read s.mem a'

/-- R31: set_flag is the assignment to one flag, get_flag reads it; and the only engine action that writes any flag is
compute_z: Fetch, Decode, MOVE, JMP, the branches and HALT leave all four as they were. -/
def Obligations.FlagsPersistUntilComputeZ : Prop :=
  (∀ (s : State) (f : Flag) (b : Bool), s.phase = .idle →
    ∃ t, hostCall (.setFlag f b) s = (t, .done) ∧ hostCall (.getFlag f) t = (t, .flag b) ∧
      (∀ g, g ≠ f → t.psr.get g = s.psr.get g) ∧ (s.psr.get f = b → t = s) ∧ t = { s with psr := t.psr }) ∧
  (∀ s : State, (fetchCommand s).1.psr = s.psr ∧ (decodeCommand s).1.psr = s.psr) ∧
  (∀ (i : Instr) (s t : State), ¬ UsesAlu i → exec i s = .next t → t.psr = s.psr) ∧
  ∀ (i : Instr) (s t : State), UsesAlu i → exec i s = .next t →
    ∃ a, circuitResult t.alu.circuit t.alu.x t.alu.y = some a ∧ t.alu.z = a.r ∧ t.psr.c = a.c ∧ t.psr.v = a.v ∧
      ZeroAndNegative t

/-- R42, which the spec marks derived: no instruction's result depends on MAR, MDR, IR, the ALU latches, MEM.ptr or
ENG.cur as they were before its Fetch. Two states that agree on PC, GPA, GPB, the flags and memory step alike, and
the states after agree again on all of those. -/
def Obligations.HiddenStateNeverReachesAProgram : Prop :=
  ∀ s t : State, s.SameVisible t →
    (∀ s', step s = .next s' → ∃ t', step t = .next t' ∧ s'.SameVisible t' ∧ s'.ir = t'.ir ∧ s'.cur = t'.cur) ∧
    ∀ f, step s = .fault f → step t = .fault f

/-- The invariant of a machine that only runs instructions is kept by every step, from every state that has it: memory
canonical (R37), Idle between instructions (R39), ENG.cur the opcode of IR (R40), MAR the pointer's address (R66),
the ALU settled on Add or Sub with Z their result (R131, R146). -/
def Obligations.EveryStepKeepsTheInvariant : Prop :=
  ∀ s t : State, s.Inv → step s = .next t → t.Inv ∧ ∃ op, t.cur = some op

/-- The reset state has that invariant. -/
def Obligations.ResetHasTheInvariant : Prop := State.reset.Inv

/-- From R24, R240(d), R300: PC stays a slot index through every instruction but JMP direct, and falls through to the
next slot, 255 to 0, wherever no jump or branch is taken. -/
def Obligations.PcStaysInRangeButForJmpDirect : Prop :=
  ∀ (s t : State), s.pc.toNat < 256 → step s = .next t → opcodeOf t.ir ≠ 0x1C#8 →
    t.pc.toNat < 256 ∧
    (t.pc = BitVec.ofNat 16 ((s.pc.toNat + 1) % 256) ∨
      (0x1B ≤ (opcodeOf t.ir).toNat ∧ (opcodeOf t.ir).toNat ≤ 0x24 ∧ t.pc.toNat = (operandOf t.ir).toNat))

/-- From R25 (that no rule reduces it is the spec's decision D8): PC.write stores all 16 bits, no value is reduced, and
while PC holds 256 or more every Fetch raises and changes nothing: the machine is stuck until something rewrites PC. -/
def Obligations.ABadPcIsStoredAndSticks : Prop :=
  ∀ (s : State) (w : Word), s.phase = .idle →
    ∃ t, hostCall (.writeReg .pc w) s = (t, .done) ∧ t = { s with pc := w } ∧
      (256 ≤ w.toNat → fetchCommand t = (t, .error (.addressOutOfRange w.toNat)) ∧
        stepCommand t = (t, .error (.addressOutOfRange w.toNat)) ∧
        ∀ cancels, runCommand (false :: cancels) t = (t, .error (.addressOutOfRange w.toNat)))

/-- From R76, which the spec marks derived: a store into the slot PC points at, direct or through a pointer, is seen by
the next Fetch, and leaves the instruction already in IR as it was. -/
def Obligations.StoresAreSeenByTheNextFetch : Prop :=
  ∀ (s : State) (b : Byte), Memory.wf s.mem = true → s.phase = .idle →
    (s.pc = b.setWidth 16 →
      (∃ t, exec (.moveAToDir b) s = .next t ∧ t.ir = s.ir ∧ (fetchCommand t).2 = .done ∧
        (fetchCommand t).1.mdr = s.gpa) ∧
      (∃ t, exec (.moveBToDir b) s = .next t ∧ t.ir = s.ir ∧ (fetchCommand t).2 = .done ∧
        (fetchCommand t).1.mdr = s.gpb)) ∧
    (s.pc = Memory.read s.mem b.toNat → s.pc.toNat < 256 →
      (∃ t, exec (.moveAToInd b) s = .next t ∧ t.ir = s.ir ∧ (fetchCommand t).2 = .done ∧
        (fetchCommand t).1.mdr = s.gpa) ∧
      (∃ t, exec (.moveBToInd b) s = .next t ∧ t.ir = s.ir ∧ (fetchCommand t).2 = .done ∧
        (fetchCommand t).1.mdr = s.gpb))

/-- R24: PC.increment() on 0..255; Fetch commits it, never above 255, and nothing else increments PC. -/
def Obligations.PcIncrementWrapsAt256 : Prop :=
  (∀ w : Word, w.toNat < 256 → pcIncrement w = BitVec.ofNat 16 ((w.toNat + 1) % 256) ∧ (pcIncrement w).toNat < 256) ∧
  (∀ s : State, s.phase = .idle →
    (fetchCommand s).1.pc = if s.pc.toNat < 256 then pcIncrement s.pc else s.pc) ∧
  (∀ s : State, (decodeCommand s).1.pc = s.pc) ∧
  ∀ (i : Instr) (s t : State), exec i s = .next t → ¬ MayWritePc i → t.pc = s.pc

/-! ### The host interface -/

/-- R29: read changes nothing and returns the stored Word, write replaces it, reset stores the reset value of R43, and
no register aliases another or memory. -/
def Obligations.RegistersReadWriteReset : Prop :=
  ∀ (s : State) (r : Reg) (w : Word), s.phase = .idle →
    hostCall (.readReg r) s = (s, .word (s.readReg r)) ∧
    (∃ t, hostCall (.writeReg r w) s = (t, .done) ∧ t.readReg r = w ∧ (∀ q, q ≠ r → t.readReg q = s.readReg q) ∧
      t.alu = s.alu ∧ t.psr = s.psr ∧ t.mem = s.mem ∧ t.ptr = s.ptr ∧ t.phase = s.phase ∧ t.cur = s.cur) ∧
    ∃ t, hostCall (.resetReg r) s = (t, .done) ∧ t.readReg r = State.reset.readReg r ∧
      (∀ q, q ≠ r → t.readReg q = s.readReg q) ∧ t.mem = s.mem

/-- From R62 (that these two are bounds-checked is the spec's decision D23): host read and write of a slot, bounds-
checked, neither moving the pointer. -/
def Obligations.HostMemoryReadAndWrite : Prop :=
  ∀ (s : State) (a : Nat) (w : Word), s.phase = .idle → Memory.wf s.mem = true →
    (a < 256 → hostCall (.memRead a) s = (s, .word (Memory.read s.mem a)) ∧
      ∃ t, hostCall (.memWrite a w) s = (t, .done) ∧ Memory.wf t.mem = true ∧ t = { s with mem := t.mem } ∧
        ∀ a', Memory.read t.mem a' = if a' = a then w else Memory.read s.mem a') ∧
    (256 ≤ a → hostCall (.memRead a) s = (s, .error (.addressOutOfRange a)) ∧
      hostCall (.memWrite a w) s = (s, .error (.addressOutOfRange a)))

/-- From R63 (its reading of MAR as unsigned is marked derived): set_pointer refuses 256 and above and keeps the
pointer, and else moves the pointer and nothing else; the engine's argument is MAR as unsigned. -/
def Obligations.SetPointerChecksItsBound : Prop :=
  ∀ (s : State) (a : Nat), s.phase = .idle →
    (256 ≤ a → hostCall (.setPointer a) s = (s, .error (.addressOutOfRange a))) ∧
    (∀ p : SlotIndex, a = p.val → hostCall (.setPointer a) s = ({ s with ptr := p }, .done)) ∧
    (256 ≤ s.mar.toNat → setPtrFromMar s = .fault (.addressOutOfRange s.mar.toNat)) ∧
    ∀ p : SlotIndex, s.mar.toNat = p.val → setPtrFromMar s = .next { s with ptr := p }

/-- R64, R65: read_at_pointer and write_at_pointer cannot fail; a read answers the pointer's slot and changes nothing, a
write changes the one slot. -/
def Obligations.ReadAndWriteAtPointer : Prop :=
  ∀ (s : State) (w : Word), s.phase = .idle → Memory.wf s.mem = true →
    hostCall .readAtPointer s = (s, .word (Memory.read s.mem s.ptr)) ∧
    ∃ t, hostCall (.writeAtPointer w) s = (t, .done) ∧ t = { s with mem := t.mem } ∧
      ∀ a', Memory.read t.mem a' = if a' = s.ptr.val then w else Memory.read s.mem a'

/-- R78: simulator reset leaves 0x0000 in all 256 slots; what was loaded is gone. -/
def Obligations.ResetZeroesMemory : Prop :=
  ∀ s : State, s.phase = .idle →
    ∃ t, hostCall .reset s = (t, .done) ∧ ∀ h : SlotIndex, Memory.read t.mem h = 0x0000#16

/-- From R43, R290, R291 (the spec's decisions D18 and D22): what reset leaves, from any Idle state, in everything but
memory: every register and latch 0x0000, circuit Add, the four flags false, MEM.ptr 0, ENG.phase Idle, ENG.cur none.
While a cycle is in flight reset raises Busy. -/
def Obligations.ResetLeavesTheStateOfR43 : Prop :=
  ∀ s : State, (s.phase ≠ .idle → hostCall .reset s = (s, .error .busy)) ∧
    (s.phase = .idle → ∃ t, hostCall .reset s = (t, .done) ∧ t = State.reset ∧
      t.pc = 0x0000#16 ∧ t.mar = 0x0000#16 ∧ t.mdr = 0x0000#16 ∧ t.ir = 0x0000#16 ∧ t.gpa = 0x0000#16 ∧
      t.gpb = 0x0000#16 ∧ t.alu.x = 0x0000#16 ∧ t.alu.y = 0x0000#16 ∧ t.alu.z = 0x0000#16 ∧ t.alu.circuit = .add ∧
      t.psr.c = false ∧ t.psr.z = false ∧ t.psr.n = false ∧ t.psr.v = false ∧ t.ptr.val = 0 ∧ t.phase = .idle ∧
      t.cur = none)

/-- From R293 (the spec's decision D19): the loader stores W[1..] in ascending slots from the ORG word's operand byte
and then sets PC to it; the ORG word is stored nowhere; slots outside keep their contents; it resets nothing. A
program that would run past slot 255 makes it fail at slot 256 without wrapping, PC not set. The last clause is the
model's choice (log 9): while a cycle is in flight the loader answers Busy and changes nothing. -/
def Obligations.LoadPlacesTheProgramAndSetsPc : Prop :=
  ∀ (p : Program) (s : State), Memory.wf s.mem = true →
    let base := (operandOf p.org).toNat
    (s.phase = .idle → base + p.words.length ≤ 256 → ∃ t, load p s = (t, .done) ∧
      t = { s with mem := t.mem, pc := (operandOf p.org).setWidth 16 } ∧
      (∀ k (hk : k < p.words.length), Memory.read t.mem (base + k) = p.words[k]) ∧
      ∀ a, a < base ∨ base + p.words.length ≤ a → Memory.read t.mem a = Memory.read s.mem a) ∧
    (s.phase = .idle → 256 < base + p.words.length →
      ∃ t, load p s = (t, .error (.addressOutOfRange 256)) ∧ t.pc = s.pc) ∧
    (s.phase ≠ .idle → load p s = (s, .error .busy))

/-- From R33 (the spec's decision D20): the packed view of the flags, carry bit 0, zero bit 1, negative bit 2, overflow
bit 3. -/
def Obligations.PackedFlagsOrder : Prop :=
  ∀ p : Psr, (Config.psrPacking p).getLsbD 0 = p.c ∧ (Config.psrPacking p).getLsbD 1 = p.z ∧
    (Config.psrPacking p).getLsbD 2 = p.n ∧ (Config.psrPacking p).getLsbD 3 = p.v

/-- From R8: the four-digit hexadecimal text of a Word reads back as that Word. (What from_hex_string accepts beyond
upper-case digits is the model's choice, log 12; this states nothing of it.) -/
def Obligations.HexTextReadsBack : Prop :=
  ∀ w : Word, fromHexString (toHexString w) = .ok w ∧ (toHexString w).length = 4
end

