-- ==== Sys2Proof/Laws/Config.lean ====
section
/-! SUPPORT. The figures of 00_scope.md R5 against the types and definitions that are built on them: none of these
lemmas compiles if a figure and its type are changed apart. -/

namespace Sys2Proof

theorem word_width : Word = BitVec Config.wordBits := rfl

theorem opcode_width : Byte = BitVec Config.opcodeBits := rfl

theorem operand_width : Byte = BitVec Config.operandBits := rfl

/-- The two fields of a Word fill it (30_encoding.md R91). -/
theorem fields_fill_the_word : Config.opcodeBits + Config.operandBits = Config.wordBits := rfl

namespace Machine

/-- GPA and GPB are all the general registers. -/
theorem gpr_count : ∃ l : List Gpr, l.Nodup ∧ l.length = Config.numGpr ∧ ∀ r, r ∈ l :=
  ⟨[.a, .b], by decide, rfl, fun r => by cases r <;> decide⟩

/-- Carry, zero, negative and overflow are all the flags. -/
theorem flag_count : ∃ l : List Flag, l.Nodup ∧ l.length = Config.numFlags ∧ ∀ f, f ∈ l :=
  ⟨[.carry, .zero, .negative, .overflow], by decide, rfl, fun f => by cases f <;> decide⟩

/-- PC wraps at the number of slots (00_scope.md R5). -/
theorem pcWrap_eq_memSlots : Config.pcWrap = Config.memSlots := rfl

end Machine

end Sys2Proof
end

