-- ==== Sys2Proof/Laws/Memory.lean ====
section
/-! SUPPORT. What the memory operations do: the canonical form in propositional words, kept by every write, and the
read-after-write laws. -/

namespace Sys2Proof.Machine

@[simp] theorem Memory.read_nil (a : Nat) : Memory.read [] a = 0x0000#16 := rfl

@[simp] theorem Memory.read_cons (k : Nat) (v : Word) (m : Memory) (a : Nat) :
    Memory.read ((k, v) :: m) a = if k = a then v else Memory.read m a := rfl

/-- The canonical form of a list is that of its head and its tail. -/
theorem Memory.wf_cons (k : Nat) (v : Word) (m : Memory) :
    Memory.wf ((k, v) :: m) = true ↔
      (∀ c ∈ m, k < c.1) ∧ k < 256 ∧ v ≠ 0x0000#16 ∧ Memory.wf m = true := by
  simp [Memory.wf, Memory.rising, Config.memSlots, Memory.unlisted]
  tauto

@[simp] theorem Memory.wf_nil : Memory.wf [] = true := rfl

/-- A slot below every listed one reads as unlisted. -/
theorem Memory.read_below {m : Memory} {a : Nat} (h : ∀ c ∈ m, a < c.1) : Memory.read m a = 0x0000#16 := by
  induction m with
  | nil => rfl
  | cons c m ih =>
    have hc := h c (by simp)
    simp [Memory.read, show c.1 ≠ a by omega, ih fun d hd => h d (by simp [hd])]

/-- A write lists no slot but the old ones and the one written. -/
theorem Memory.mem_write {m : Memory} {a : Nat} {w : Word} {c : Nat × Word} (h : c ∈ Memory.write m a w) :
    c ∈ m ∨ c = (a, w) := by
  induction m with
  | nil => simp [Memory.write] at h; simp [h.2]
  | cons d m ih =>
    simp only [Memory.write] at h
    split at h
    · rcases List.mem_cons.mp h with rfl | h
      · simp
      · rcases ih h with h | h <;> simp [h]
    · split at h <;> split at h <;> simp_all <;> tauto

/-- Every write of a slot of the array keeps the canonical form. -/
theorem Memory.write_wf {m : Memory} (hm : Memory.wf m = true) {a : Nat} (ha : a < 256) (w : Word) :
    Memory.wf (Memory.write m a w) = true := by
  induction m with
  | nil =>
    simp only [Memory.write]
    split
    · rfl
    · rename_i h
      simpa [Memory.wf_cons, Memory.unlisted] using ⟨ha, h⟩
  | cons d m ih =>
    obtain ⟨k, v⟩ := d
    obtain ⟨h1, h2, h3, h4⟩ := (Memory.wf_cons k v m).mp hm
    simp only [Memory.write]
    split
    · refine (Memory.wf_cons ..).mpr ⟨fun c hc => ?_, h2, h3, ih h4⟩
      rcases Memory.mem_write hc with h | rfl
      · exact h1 c h
      · assumption
    · rename_i hk
      by_cases hka : k = a
      · subst hka
        by_cases hw : w = 0x0000#16
        · simpa [Memory.unlisted, hw] using h4
        · simpa [Memory.unlisted, hw, Memory.wf_cons] using ⟨fun a b h => h1 (a, b) h, ha, h4⟩
      · by_cases hw : w = 0x0000#16
        · simpa [Memory.unlisted, hw, hka] using hm
        · rw [if_neg hka, if_neg (by simpa [Memory.unlisted] using hw)]
          refine (Memory.wf_cons ..).mpr ⟨fun c hc => ?_, ha, hw, hm⟩
          rcases List.mem_cons.mp hc with rfl | hc
          · simp; omega
          · have := h1 c hc
            omega

/-- Reading after a write: the slot written holds the Word written, every other slot what it held. -/
theorem Memory.read_write {m : Memory} (hm : Memory.wf m = true) (a : Nat) (w : Word) (b : Nat) :
    Memory.read (Memory.write m a w) b = if b = a then w else Memory.read m b := by
  induction m with
  | nil =>
    by_cases hw : w = 0x0000#16 <;> simp [Memory.write, Memory.unlisted, hw, eq_comm]
  | cons d m ih =>
    obtain ⟨k, v⟩ := d
    obtain ⟨h1, -, -, h4⟩ := (Memory.wf_cons k v m).mp hm
    simp only [Memory.write, Memory.unlisted]
    split
    · rw [Memory.read_cons, ih h4, Memory.read_cons]
      by_cases hb : b = a
      · simp [hb, show k ≠ a by omega]
      · simp [hb]
    · by_cases hka : k = a
      · subst hka
        by_cases hw : w = 0x0000#16
        · by_cases hb : b = k
          · subst hb
            simp [hw, Memory.read_below fun c hc => h1 c hc]
          · simp [hw, hb, Ne.symm hb]
        · by_cases hb : b = k
          · simp [hw, hb]
          · simp [hw, hb, Ne.symm hb]
      · by_cases hw : w = 0x0000#16
        · by_cases hb : b = a
          · subst hb
            simp [hw, hka, Memory.read_below fun c hc => (show b < c.1 by have := h1 c hc; omega)]
          · simp [hw, hka, hb]
        · by_cases hb : b = a
          · simp [hw, hb]
          · simp [hw, hka, hb, Ne.symm hb]

end Sys2Proof.Machine
end

