-- ==== Sys2Proof/Laws/State.lean ====
section
/-! SUPPORT. One lemma per field per update of State, true by rfl: no later proof unfolds a record update. -/

namespace Sys2Proof.Machine

variable (s : State)

section
variable (x : Word)
@[simp] theorem State.withPc_pc : (s.withPc x).pc = x := rfl
@[simp] theorem State.withPc_mar : (s.withPc x).mar = s.mar := rfl
@[simp] theorem State.withPc_mdr : (s.withPc x).mdr = s.mdr := rfl
@[simp] theorem State.withPc_ir : (s.withPc x).ir = s.ir := rfl
@[simp] theorem State.withPc_gpa : (s.withPc x).gpa = s.gpa := rfl
@[simp] theorem State.withPc_gpb : (s.withPc x).gpb = s.gpb := rfl
@[simp] theorem State.withPc_alu : (s.withPc x).alu = s.alu := rfl
@[simp] theorem State.withPc_psr : (s.withPc x).psr = s.psr := rfl
@[simp] theorem State.withPc_mem : (s.withPc x).mem = s.mem := rfl
@[simp] theorem State.withPc_ptr : (s.withPc x).ptr = s.ptr := rfl
@[simp] theorem State.withPc_phase : (s.withPc x).phase = s.phase := rfl
@[simp] theorem State.withPc_cur : (s.withPc x).cur = s.cur := rfl
end

section
variable (x : Word)
@[simp] theorem State.withMar_pc : (s.withMar x).pc = s.pc := rfl
@[simp] theorem State.withMar_mar : (s.withMar x).mar = x := rfl
@[simp] theorem State.withMar_mdr : (s.withMar x).mdr = s.mdr := rfl
@[simp] theorem State.withMar_ir : (s.withMar x).ir = s.ir := rfl
@[simp] theorem State.withMar_gpa : (s.withMar x).gpa = s.gpa := rfl
@[simp] theorem State.withMar_gpb : (s.withMar x).gpb = s.gpb := rfl
@[simp] theorem State.withMar_alu : (s.withMar x).alu = s.alu := rfl
@[simp] theorem State.withMar_psr : (s.withMar x).psr = s.psr := rfl
@[simp] theorem State.withMar_mem : (s.withMar x).mem = s.mem := rfl
@[simp] theorem State.withMar_ptr : (s.withMar x).ptr = s.ptr := rfl
@[simp] theorem State.withMar_phase : (s.withMar x).phase = s.phase := rfl
@[simp] theorem State.withMar_cur : (s.withMar x).cur = s.cur := rfl
end

section
variable (x : Word)
@[simp] theorem State.withMdr_pc : (s.withMdr x).pc = s.pc := rfl
@[simp] theorem State.withMdr_mar : (s.withMdr x).mar = s.mar := rfl
@[simp] theorem State.withMdr_mdr : (s.withMdr x).mdr = x := rfl
@[simp] theorem State.withMdr_ir : (s.withMdr x).ir = s.ir := rfl
@[simp] theorem State.withMdr_gpa : (s.withMdr x).gpa = s.gpa := rfl
@[simp] theorem State.withMdr_gpb : (s.withMdr x).gpb = s.gpb := rfl
@[simp] theorem State.withMdr_alu : (s.withMdr x).alu = s.alu := rfl
@[simp] theorem State.withMdr_psr : (s.withMdr x).psr = s.psr := rfl
@[simp] theorem State.withMdr_mem : (s.withMdr x).mem = s.mem := rfl
@[simp] theorem State.withMdr_ptr : (s.withMdr x).ptr = s.ptr := rfl
@[simp] theorem State.withMdr_phase : (s.withMdr x).phase = s.phase := rfl
@[simp] theorem State.withMdr_cur : (s.withMdr x).cur = s.cur := rfl
end

section
variable (x : Word)
@[simp] theorem State.withIr_pc : (s.withIr x).pc = s.pc := rfl
@[simp] theorem State.withIr_mar : (s.withIr x).mar = s.mar := rfl
@[simp] theorem State.withIr_mdr : (s.withIr x).mdr = s.mdr := rfl
@[simp] theorem State.withIr_ir : (s.withIr x).ir = x := rfl
@[simp] theorem State.withIr_gpa : (s.withIr x).gpa = s.gpa := rfl
@[simp] theorem State.withIr_gpb : (s.withIr x).gpb = s.gpb := rfl
@[simp] theorem State.withIr_alu : (s.withIr x).alu = s.alu := rfl
@[simp] theorem State.withIr_psr : (s.withIr x).psr = s.psr := rfl
@[simp] theorem State.withIr_mem : (s.withIr x).mem = s.mem := rfl
@[simp] theorem State.withIr_ptr : (s.withIr x).ptr = s.ptr := rfl
@[simp] theorem State.withIr_phase : (s.withIr x).phase = s.phase := rfl
@[simp] theorem State.withIr_cur : (s.withIr x).cur = s.cur := rfl
end

section
variable (x : Word)
@[simp] theorem State.withGpa_pc : (s.withGpa x).pc = s.pc := rfl
@[simp] theorem State.withGpa_mar : (s.withGpa x).mar = s.mar := rfl
@[simp] theorem State.withGpa_mdr : (s.withGpa x).mdr = s.mdr := rfl
@[simp] theorem State.withGpa_ir : (s.withGpa x).ir = s.ir := rfl
@[simp] theorem State.withGpa_gpa : (s.withGpa x).gpa = x := rfl
@[simp] theorem State.withGpa_gpb : (s.withGpa x).gpb = s.gpb := rfl
@[simp] theorem State.withGpa_alu : (s.withGpa x).alu = s.alu := rfl
@[simp] theorem State.withGpa_psr : (s.withGpa x).psr = s.psr := rfl
@[simp] theorem State.withGpa_mem : (s.withGpa x).mem = s.mem := rfl
@[simp] theorem State.withGpa_ptr : (s.withGpa x).ptr = s.ptr := rfl
@[simp] theorem State.withGpa_phase : (s.withGpa x).phase = s.phase := rfl
@[simp] theorem State.withGpa_cur : (s.withGpa x).cur = s.cur := rfl
end

section
variable (x : Word)
@[simp] theorem State.withGpb_pc : (s.withGpb x).pc = s.pc := rfl
@[simp] theorem State.withGpb_mar : (s.withGpb x).mar = s.mar := rfl
@[simp] theorem State.withGpb_mdr : (s.withGpb x).mdr = s.mdr := rfl
@[simp] theorem State.withGpb_ir : (s.withGpb x).ir = s.ir := rfl
@[simp] theorem State.withGpb_gpa : (s.withGpb x).gpa = s.gpa := rfl
@[simp] theorem State.withGpb_gpb : (s.withGpb x).gpb = x := rfl
@[simp] theorem State.withGpb_alu : (s.withGpb x).alu = s.alu := rfl
@[simp] theorem State.withGpb_psr : (s.withGpb x).psr = s.psr := rfl
@[simp] theorem State.withGpb_mem : (s.withGpb x).mem = s.mem := rfl
@[simp] theorem State.withGpb_ptr : (s.withGpb x).ptr = s.ptr := rfl
@[simp] theorem State.withGpb_phase : (s.withGpb x).phase = s.phase := rfl
@[simp] theorem State.withGpb_cur : (s.withGpb x).cur = s.cur := rfl
end

section
variable (x : Alu)
@[simp] theorem State.withAlu_pc : (s.withAlu x).pc = s.pc := rfl
@[simp] theorem State.withAlu_mar : (s.withAlu x).mar = s.mar := rfl
@[simp] theorem State.withAlu_mdr : (s.withAlu x).mdr = s.mdr := rfl
@[simp] theorem State.withAlu_ir : (s.withAlu x).ir = s.ir := rfl
@[simp] theorem State.withAlu_gpa : (s.withAlu x).gpa = s.gpa := rfl
@[simp] theorem State.withAlu_gpb : (s.withAlu x).gpb = s.gpb := rfl
@[simp] theorem State.withAlu_alu : (s.withAlu x).alu = x := rfl
@[simp] theorem State.withAlu_psr : (s.withAlu x).psr = s.psr := rfl
@[simp] theorem State.withAlu_mem : (s.withAlu x).mem = s.mem := rfl
@[simp] theorem State.withAlu_ptr : (s.withAlu x).ptr = s.ptr := rfl
@[simp] theorem State.withAlu_phase : (s.withAlu x).phase = s.phase := rfl
@[simp] theorem State.withAlu_cur : (s.withAlu x).cur = s.cur := rfl
end

section
variable (x : Psr)
@[simp] theorem State.withPsr_pc : (s.withPsr x).pc = s.pc := rfl
@[simp] theorem State.withPsr_mar : (s.withPsr x).mar = s.mar := rfl
@[simp] theorem State.withPsr_mdr : (s.withPsr x).mdr = s.mdr := rfl
@[simp] theorem State.withPsr_ir : (s.withPsr x).ir = s.ir := rfl
@[simp] theorem State.withPsr_gpa : (s.withPsr x).gpa = s.gpa := rfl
@[simp] theorem State.withPsr_gpb : (s.withPsr x).gpb = s.gpb := rfl
@[simp] theorem State.withPsr_alu : (s.withPsr x).alu = s.alu := rfl
@[simp] theorem State.withPsr_psr : (s.withPsr x).psr = x := rfl
@[simp] theorem State.withPsr_mem : (s.withPsr x).mem = s.mem := rfl
@[simp] theorem State.withPsr_ptr : (s.withPsr x).ptr = s.ptr := rfl
@[simp] theorem State.withPsr_phase : (s.withPsr x).phase = s.phase := rfl
@[simp] theorem State.withPsr_cur : (s.withPsr x).cur = s.cur := rfl
end

section
variable (x : Memory)
@[simp] theorem State.withMem_pc : (s.withMem x).pc = s.pc := rfl
@[simp] theorem State.withMem_mar : (s.withMem x).mar = s.mar := rfl
@[simp] theorem State.withMem_mdr : (s.withMem x).mdr = s.mdr := rfl
@[simp] theorem State.withMem_ir : (s.withMem x).ir = s.ir := rfl
@[simp] theorem State.withMem_gpa : (s.withMem x).gpa = s.gpa := rfl
@[simp] theorem State.withMem_gpb : (s.withMem x).gpb = s.gpb := rfl
@[simp] theorem State.withMem_alu : (s.withMem x).alu = s.alu := rfl
@[simp] theorem State.withMem_psr : (s.withMem x).psr = s.psr := rfl
@[simp] theorem State.withMem_mem : (s.withMem x).mem = x := rfl
@[simp] theorem State.withMem_ptr : (s.withMem x).ptr = s.ptr := rfl
@[simp] theorem State.withMem_phase : (s.withMem x).phase = s.phase := rfl
@[simp] theorem State.withMem_cur : (s.withMem x).cur = s.cur := rfl
end

section
variable (x : SlotIndex)
@[simp] theorem State.withPtr_pc : (s.withPtr x).pc = s.pc := rfl
@[simp] theorem State.withPtr_mar : (s.withPtr x).mar = s.mar := rfl
@[simp] theorem State.withPtr_mdr : (s.withPtr x).mdr = s.mdr := rfl
@[simp] theorem State.withPtr_ir : (s.withPtr x).ir = s.ir := rfl
@[simp] theorem State.withPtr_gpa : (s.withPtr x).gpa = s.gpa := rfl
@[simp] theorem State.withPtr_gpb : (s.withPtr x).gpb = s.gpb := rfl
@[simp] theorem State.withPtr_alu : (s.withPtr x).alu = s.alu := rfl
@[simp] theorem State.withPtr_psr : (s.withPtr x).psr = s.psr := rfl
@[simp] theorem State.withPtr_mem : (s.withPtr x).mem = s.mem := rfl
@[simp] theorem State.withPtr_ptr : (s.withPtr x).ptr = x := rfl
@[simp] theorem State.withPtr_phase : (s.withPtr x).phase = s.phase := rfl
@[simp] theorem State.withPtr_cur : (s.withPtr x).cur = s.cur := rfl
end

section
variable (x : Phase)
@[simp] theorem State.withPhase_pc : (s.withPhase x).pc = s.pc := rfl
@[simp] theorem State.withPhase_mar : (s.withPhase x).mar = s.mar := rfl
@[simp] theorem State.withPhase_mdr : (s.withPhase x).mdr = s.mdr := rfl
@[simp] theorem State.withPhase_ir : (s.withPhase x).ir = s.ir := rfl
@[simp] theorem State.withPhase_gpa : (s.withPhase x).gpa = s.gpa := rfl
@[simp] theorem State.withPhase_gpb : (s.withPhase x).gpb = s.gpb := rfl
@[simp] theorem State.withPhase_alu : (s.withPhase x).alu = s.alu := rfl
@[simp] theorem State.withPhase_psr : (s.withPhase x).psr = s.psr := rfl
@[simp] theorem State.withPhase_mem : (s.withPhase x).mem = s.mem := rfl
@[simp] theorem State.withPhase_ptr : (s.withPhase x).ptr = s.ptr := rfl
@[simp] theorem State.withPhase_phase : (s.withPhase x).phase = x := rfl
@[simp] theorem State.withPhase_cur : (s.withPhase x).cur = s.cur := rfl
end

section
variable (x : Option Byte)
@[simp] theorem State.withCur_pc : (s.withCur x).pc = s.pc := rfl
@[simp] theorem State.withCur_mar : (s.withCur x).mar = s.mar := rfl
@[simp] theorem State.withCur_mdr : (s.withCur x).mdr = s.mdr := rfl
@[simp] theorem State.withCur_ir : (s.withCur x).ir = s.ir := rfl
@[simp] theorem State.withCur_gpa : (s.withCur x).gpa = s.gpa := rfl
@[simp] theorem State.withCur_gpb : (s.withCur x).gpb = s.gpb := rfl
@[simp] theorem State.withCur_alu : (s.withCur x).alu = s.alu := rfl
@[simp] theorem State.withCur_psr : (s.withCur x).psr = s.psr := rfl
@[simp] theorem State.withCur_mem : (s.withCur x).mem = s.mem := rfl
@[simp] theorem State.withCur_ptr : (s.withCur x).ptr = s.ptr := rfl
@[simp] theorem State.withCur_phase : (s.withCur x).phase = s.phase := rfl
@[simp] theorem State.withCur_cur : (s.withCur x).cur = x := rfl
end

/-! ### General registers -/

@[simp] theorem State.gpr_a : s.gpr .a = s.gpa := rfl
@[simp] theorem State.gpr_b : s.gpr .b = s.gpb := rfl
@[simp] theorem State.withGpr_a (w : Word) : s.withGpr .a w = s.withGpa w := rfl
@[simp] theorem State.withGpr_b (w : Word) : s.withGpr .b w = s.withGpb w := rfl
@[simp] theorem Gpr.other_a : Gpr.other .a = .b := rfl
@[simp] theorem Gpr.other_b : Gpr.other .b = .a := rfl

@[simp] theorem State.withGpr_pc (r : Gpr) (w : Word) : (s.withGpr r w).pc = s.pc := by cases r <;> rfl
@[simp] theorem State.withGpr_mar (r : Gpr) (w : Word) : (s.withGpr r w).mar = s.mar := by cases r <;> rfl
@[simp] theorem State.withGpr_mdr (r : Gpr) (w : Word) : (s.withGpr r w).mdr = s.mdr := by cases r <;> rfl
@[simp] theorem State.withGpr_ir (r : Gpr) (w : Word) : (s.withGpr r w).ir = s.ir := by cases r <;> rfl
@[simp] theorem State.withGpr_alu (r : Gpr) (w : Word) : (s.withGpr r w).alu = s.alu := by cases r <;> rfl
@[simp] theorem State.withGpr_psr (r : Gpr) (w : Word) : (s.withGpr r w).psr = s.psr := by cases r <;> rfl
@[simp] theorem State.withGpr_mem (r : Gpr) (w : Word) : (s.withGpr r w).mem = s.mem := by cases r <;> rfl
@[simp] theorem State.withGpr_ptr (r : Gpr) (w : Word) : (s.withGpr r w).ptr = s.ptr := by cases r <;> rfl
@[simp] theorem State.withGpr_phase (r : Gpr) (w : Word) : (s.withGpr r w).phase = s.phase := by cases r <;> rfl
@[simp] theorem State.withGpr_cur (r : Gpr) (w : Word) : (s.withGpr r w).cur = s.cur := by cases r <;> rfl

@[simp] theorem State.gpr_withGpr (r : Gpr) (w : Word) : (s.withGpr r w).gpr r = w := by cases r <;> rfl
@[simp] theorem State.gpr_other_withGpr (r : Gpr) (w : Word) : (s.withGpr r w).gpr r.other = s.gpr r.other := by
  cases r <;> rfl

@[simp] theorem State.gpr_withPc (r : Gpr) (x : Word) : (s.withPc x).gpr r = s.gpr r := by cases r <;> rfl
@[simp] theorem State.gpr_withMar (r : Gpr) (x : Word) : (s.withMar x).gpr r = s.gpr r := by cases r <;> rfl
@[simp] theorem State.gpr_withMdr (r : Gpr) (x : Word) : (s.withMdr x).gpr r = s.gpr r := by cases r <;> rfl
@[simp] theorem State.gpr_withIr (r : Gpr) (x : Word) : (s.withIr x).gpr r = s.gpr r := by cases r <;> rfl
@[simp] theorem State.gpr_withAlu (r : Gpr) (x : Alu) : (s.withAlu x).gpr r = s.gpr r := by cases r <;> rfl
@[simp] theorem State.gpr_withPsr (r : Gpr) (x : Psr) : (s.withPsr x).gpr r = s.gpr r := by cases r <;> rfl
@[simp] theorem State.gpr_withMem (r : Gpr) (x : Memory) : (s.withMem x).gpr r = s.gpr r := by cases r <;> rfl
@[simp] theorem State.gpr_withPtr (r : Gpr) (x : SlotIndex) : (s.withPtr x).gpr r = s.gpr r := by cases r <;> rfl
@[simp] theorem State.gpr_withPhase (r : Gpr) (x : Phase) : (s.withPhase x).gpr r = s.gpr r := by cases r <;> rfl
@[simp] theorem State.gpr_withCur (r : Gpr) (x : Option Byte) : (s.withCur x).gpr r = s.gpr r := by cases r <;> rfl

/-! ### Sequencing -/

@[simp] theorem andThen_next (f : State → Result) : andThen (.next s) f = f s := rfl
@[simp] theorem andThen_fault (e : Fault) (f : State → Result) : andThen (.fault e) f = .fault e := rfl
@[simp] theorem andThen_refused (q : Refusal) (f : State → Result) : andThen (.refused q) f = .refused q := rfl

/-- A sequence completes exactly when both parts do. -/
theorem andThen_eq_next (r : Result) (f : State → Result) (t : State) :
    andThen r f = .next t ↔ ∃ u, r = .next u ∧ f u = .next t := by
  cases r <;> simp

/-- Two states with the same fields are the same state. -/
theorem State.ext_fields {s t : State} (h1 : s.pc = t.pc) (h2 : s.mar = t.mar) (h3 : s.mdr = t.mdr) (h4 : s.ir = t.ir)
    (h5 : s.gpa = t.gpa) (h6 : s.gpb = t.gpb) (h7 : s.alu = t.alu) (h8 : s.psr = t.psr) (h9 : s.mem = t.mem)
    (h10 : s.ptr = t.ptr) (h11 : s.phase = t.phase) (h12 : s.cur = t.cur) : s = t := by
  cases s; cases t; simp_all

end Sys2Proof.Machine
end

