-- ==== Sys2Proof/Laws/Ops.lean ====
section
/-! SUPPORT. One lemma for each shared operation, saying once all it can do. -/

namespace Sys2Proof.Machine

/-! ### Operands -/

@[simp] theorem immediate_eq (b : Byte) : immediate b = b.setWidth 16 := rfl
@[simp] theorem directAddress_eq (b : Byte) : directAddress b = b.setWidth 16 := rfl

@[simp] theorem setWidth_toNat (b : Byte) : (b.setWidth 16).toNat = b.toNat := by
  rw [BitVec.toNat_setWidth]
  exact Nat.mod_eq_of_lt (by have := b.isLt; omega)

@[simp] theorem slotOf_val (b : Byte) : (slotOf b).val = b.toNat := rfl

/-! ### The pointer and the access patterns -/

/-- set_pointer succeeds on the slot indexes. -/
theorem setPointer_slot (p : SlotIndex) (s : State) : setPointer p.val s = .next (s.withPtr p) := by
  simp [setPointer, Config.memSlots]

/-- set_pointer refuses 256 and above. -/
theorem setPointer_beyond {a : Nat} (h : 256 ≤ a) (s : State) : setPointer a s = .fault (.addressOutOfRange a) := by
  simp [setPointer, Config.memSlots, Nat.not_lt.mpr h]

/-- The engine's read of a slot: MAR, MEM.ptr and MDR written, nothing else. -/
theorem readInto_slot {a : Word} {p : SlotIndex} (h : a.toNat = p.val) (s : State) :
    readInto a s = .next (((s.withMar a).withPtr p).withMdr (Memory.read s.mem p)) := by
  simp [readInto, setPtrFromMar, h, setPointer_slot, readPtr]

/-- The engine's read at an address that is no slot. -/
theorem readInto_beyond {a : Word} (h : 256 ≤ a.toNat) (s : State) :
    readInto a s = .fault (.addressOutOfRange a.toNat) := by
  simp [readInto, setPtrFromMar, setPointer_beyond h]

/-- A direct operand is always read: its address is a slot. -/
@[simp] theorem readInto_direct (b : Byte) (s : State) :
    readInto (b.setWidth 16) s =
      .next (((s.withMar (b.setWidth 16)).withPtr (slotOf b)).withMdr (Memory.read s.mem b.toNat)) :=
  readInto_slot (p := slotOf b) (setWidth_toNat b) s

/-- The engine's write of a register into a slot: MAR, MEM.ptr, MDR and that slot written, nothing else. -/
theorem storeReg_slot {a : Word} {p : SlotIndex} (h : a.toNat = p.val) (r : Gpr) (s : State) :
    storeReg a r s =
      .next ((((s.withMar a).withPtr p).withMdr (s.gpr r)).withMem (Memory.write s.mem p (s.gpr r))) := by
  simp [storeReg, setPtrFromMar, h, setPointer_slot, writePtr]

/-- The engine's write at an address that is no slot. -/
theorem storeReg_beyond {a : Word} (h : 256 ≤ a.toNat) (r : Gpr) (s : State) :
    storeReg a r s = .fault (.addressOutOfRange a.toNat) := by
  simp [storeReg, setPtrFromMar, setPointer_beyond h]

/-- A direct store always succeeds. -/
@[simp] theorem storeReg_direct (b : Byte) (r : Gpr) (s : State) :
    storeReg (b.setWidth 16) r s =
      .next ((((s.withMar (b.setWidth 16)).withPtr (slotOf b)).withMdr (s.gpr r)).withMem
        (Memory.write s.mem b.toNat (s.gpr r))) :=
  storeReg_slot (p := slotOf b) (setWidth_toNat b) r s

/-- An indirect store through a pointer Word that is a slot index. -/
theorem storeIndirect_slot {b : Byte} {s : State} {p : SlotIndex} (h : (Memory.read s.mem b.toNat).toNat = p.val)
    (r : Gpr) :
    storeIndirect b r s =
      .next ((((s.withMar (Memory.read s.mem b.toNat)).withPtr p).withMdr (s.gpr r)).withMem
        (Memory.write s.mem p (s.gpr r))) := by
  simp only [storeIndirect, directAddress_eq, readInto_direct, andThen_next, State.withMdr_mdr]
  rw [storeReg_slot h]
  cases r <;> rfl

/-- An indirect store through a pointer Word of 256 or more. -/
theorem storeIndirect_beyond {b : Byte} {s : State} (h : 256 ≤ (Memory.read s.mem b.toNat).toNat) (r : Gpr) :
    storeIndirect b r s = .fault (.addressOutOfRange (Memory.read s.mem b.toNat).toNat) := by
  simp only [storeIndirect, directAddress_eq, readInto_direct, andThen_next, State.withMdr_mdr]
  rw [storeReg_beyond h]

/-- Every Word is a slot index or 256 or more. -/
theorem slot_or_beyond (w : Word) : (∃ p : SlotIndex, w.toNat = p.val) ∨ 256 ≤ w.toNat := by
  by_cases h : w.toNat < 256
  · exact .inl ⟨⟨w.toNat, h⟩, rfl⟩
  · exact .inr (by omega)

/-! ### The ALU -/

/-- compute_z with a circuit that gives a result: Z and the four flags written, nothing else. -/
theorem computeZ_some {s : State} {a : AluResult} (h : circuitResult s.alu.circuit s.alu.x s.alu.y = some a) :
    computeZ s = .next ((s.withAlu { s.alu with z := a.r }).withPsr (flagsOf a)) := by
  simp [computeZ, h]

/-- compute_z dividing by zero. -/
theorem computeZ_none {s : State} (h : circuitResult s.alu.circuit s.alu.x s.alu.y = none) :
    computeZ s = .fault .divisionByZero := by
  simp [computeZ, h]

/-- The latches loaded and computed: X the destination, Y the source. -/
theorem loadAndCompute_some {k : Circuit} {x y : Word} {a : AluResult} (h : circuitResult k x y = some a) (s : State) :
    loadAndCompute k x y s = .next ((s.withAlu ⟨x, y, k, a.r⟩).withPsr (flagsOf a)) := by
  have : circuitResult (setCircuit k (writeY y (writeX x s))).alu.circuit
      (setCircuit k (writeY y (writeX x s))).alu.x (setCircuit k (writeY y (writeX x s))).alu.y = some a := by
    simpa [setCircuit, writeX, writeY] using h
  simp only [loadAndCompute, Config.aluOperandOrder]
  rw [computeZ_some this]
  rfl

/-- The state a source operand's memory step leaves. -/
def afterSource (src : Source) (s : State) : State :=
  match src with
  | .direct b => ((s.withMar (b.setWidth 16)).withPtr (slotOf b)).withMdr (Memory.read s.mem b.toNat)
  | .immediate _ | .register => s

/-- The value of a source operand, from the state before its memory step. -/
def sourceWord (src : Source) (r : Gpr) (s : State) : Word :=
  match src with
  | .immediate b => b.setWidth 16
  | .direct b => Memory.read s.mem b.toNat
  | .register => s.gpr r.other

/-- The pipeline of ADD, SUB and COMPARE never fails with a circuit that gives a result. -/
theorem aluPipeline_some {k : Circuit} {r : Gpr} {src : Source} {s : State} {a : AluResult}
    (h : circuitResult k (s.gpr r) (sourceWord src r s) = some a) :
    aluPipeline k r src s =
      .next (((afterSource src s).withAlu ⟨s.gpr r, sourceWord src r s, k, a.r⟩).withPsr (flagsOf a)) := by
  cases src <;> simpa [aluPipeline, fetchSource, sourceValue, afterSource, sourceWord] using loadAndCompute_some h _

/-- ADD and SUB: the pipeline's state with the result copied into the destination. -/
theorem computeInto_some {k : Circuit} {r : Gpr} {src : Source} {s : State} {a : AluResult}
    (h : circuitResult k (s.gpr r) (sourceWord src r s) = some a) :
    computeInto k r src s =
      .next ((((afterSource src s).withAlu ⟨s.gpr r, sourceWord src r s, k, a.r⟩).withPsr (flagsOf a)).withGpr r a.r) := by
  simp [computeInto, aluPipeline_some h]

/-- COMPARE: the pipeline's state with circuit Sub. -/
theorem compareWith_eq (r : Gpr) (src : Source) (s : State) :
    compareWith r src s =
      .next (((afterSource src s).withAlu
        ⟨s.gpr r, sourceWord src r s, .sub, (subCircuit (s.gpr r) (sourceWord src r s)).r⟩).withPsr
          (flagsOf (subCircuit (s.gpr r) (sourceWord src r s)))) :=
  aluPipeline_some rfl

@[simp] theorem circuitResult_add (x y : Word) : circuitResult .add x y = some (addCircuit x y) := rfl
@[simp] theorem circuitResult_sub (x y : Word) : circuitResult .sub x y = some (subCircuit x y) := rfl
@[simp] theorem circuitResult_mul (x y : Word) : circuitResult .mul x y = some (mulCircuit x y) := rfl
@[simp] theorem compareCircuit_eq : Config.compareCircuit = .sub := rfl

/-- The unsigned value of a truncated integer. -/
theorem trunc16_toNat (n : Int) : ((trunc16 n).toNat : Int) = n % 65536 := by
  simp [trunc16, BitVec.toNat_ofInt]
  omega

/-! ### The cycle -/

/-- A cycle whose body completes. -/
theorem atomicCycle_next {p : Phase} {body : State → Result} {s t : State} (hs : s.phase = .idle)
    (h : body (s.withPhase p) = .next t) : atomicCycle p body s = (t.withPhase .idle, .done) := by
  simp [atomicCycle, hs, h]

/-- A cycle whose body raises: nothing has changed. -/
theorem atomicCycle_fault {p : Phase} {body : State → Result} {s : State} {f : Fault} (hs : s.phase = .idle)
    (h : body (s.withPhase p) = .fault f) : atomicCycle p body s = (s, .error f) := by
  simp [atomicCycle, hs, h]

/-- A cycle that arrives while another is in flight. -/
theorem atomicCycle_busy {p : Phase} {body : State → Result} {s : State} (hs : s.phase ≠ .idle) :
    atomicCycle p body s = (s, .error .busy) := by
  simp [atomicCycle, hs]

/-- A cycle that answers an error leaves the state it started from. -/
theorem atomicCycle_error {p : Phase} {body : State → Result} {s t : State} {f : Fault}
    (h : atomicCycle p body s = (t, .error f)) : t = s := by
  unfold atomicCycle at h
  split at h
  · split at h <;> simp_all
  · simp_all

@[simp] theorem ifDone_done (s : State) (f : State → State × Reply) : ifDone (s, .done) f = f s := rfl
@[simp] theorem ifDone_error (s : State) (e : Fault) (f : State → State × Reply) :
    ifDone (s, .error e) f = (s, .error e) := rfl
@[simp] theorem ifDone_refused (s : State) (q : Refusal) (f : State → State × Reply) :
    ifDone (s, .refused q) f = (s, .refused q) := rfl

end Sys2Proof.Machine
end

