-- ==== Sys2Proof/Laws/Engine.lean ====
section
/-! SUPPORT. What the decoder, exec and the cycles' bodies do, each said once. -/

namespace Sys2Proof

/-! ### Words and the opcode map -/

/-- The unsigned value of a Word made of two bytes. -/
theorem wordOf_toNat (op b : Byte) : (wordOf op b).toNat = 256 * op.toNat + b.toNat := by
  have h : (wordOf op b).toNat = op.toNat <<< 8 ||| b.toNat := BitVec.toNat_append op b
  rw [h, ← Nat.shiftLeft_add_eq_or_of_lt b.isLt, Nat.shiftLeft_eq]
  omega

theorem opcodeOf_toNat (w : Word) : (opcodeOf w).toNat = w.toNat / 256 := by
  have := w.isLt
  simp only [opcodeOf, BitVec.extractLsb'_toNat, Nat.shiftRight_eq_div_pow, Config.opcodeBits, Config.operandBits]
  omega

theorem operandOf_toNat (w : Word) : (operandOf w).toNat = w.toNat % 256 := by
  simp [operandOf, BitVec.extractLsb'_toNat]

@[simp] theorem opcodeOf_wordOf (op b : Byte) : opcodeOf (wordOf op b) = op := by
  apply BitVec.eq_of_toNat_eq
  have := b.isLt
  rw [opcodeOf_toNat, wordOf_toNat]
  omega

@[simp] theorem operandOf_wordOf (op b : Byte) : operandOf (wordOf op b) = b := by
  apply BitVec.eq_of_toNat_eq
  have := b.isLt
  rw [operandOf_toNat, wordOf_toNat]
  omega

/-- A Word is its two bytes. -/
theorem wordOf_split (w : Word) : wordOf (opcodeOf w) (operandOf w) = w := by
  apply BitVec.eq_of_toNat_eq
  rw [wordOf_toNat, opcodeOf_toNat, operandOf_toNat]
  omega

/-- The dispatch table gives an instruction with the opcode and operand it was asked for. -/
theorem opmap_some {op b : Byte} {i : Instr} (h : Config.opmap op b = some i) : i.opcode = op ∧ i.operand = b := by
  unfold Config.opmap at h
  split at h <;> first | (cases h; exact ⟨rfl, rfl⟩) | cases h

/-- An instruction's own opcode and operand dispatch to it. -/
@[simp] theorem opmap_opcode (i : Instr) : Config.opmap i.opcode i.operand = some i := by cases i <;> rfl

/-- An instruction's opcode has an entry in the instruction-set table. -/
@[simp] theorem instrTable_opcode (i : Instr) : Config.instrTable.contains i.opcode = true := by cases i <;> rfl

/-- INSTR_TABLE is the set of opcodes of OPMAP (the spec's decision D15). -/
theorem instrTable_eq_opmap (op b : Byte) : Config.instrTable.contains op = (Config.opmap op b).isSome := by
  unfold Config.opmap
  split <;> first | rfl | simp_all [Config.instrTable, Config.haltOpcode]

/-- The operand byte plays no part in the dispatch (30_encoding.md R96). -/
theorem opmap_operand (op b b' : Byte) : (Config.opmap op b).isNone = (Config.opmap op b').isNone := by
  unfold Config.opmap
  split <;> rfl

set_option maxRecDepth 4000 in
/-- The opcode bytes with no entry, checked one by one. -/
theorem opmap_none_all : ∀ n : Fin 256,
    (Config.opmap (BitVec.ofFin n) 0#8).isNone = true ↔ (n.val = 0 ∨ (37 ≤ n.val ∧ n.val ≤ 254)) := by
  decide

/-- The dispatch table has no entry exactly for 0x00 and 0x25 to 0xFE (30_encoding.md R100). -/
theorem opmap_none_iff (op b : Byte) :
    Config.opmap op b = none ↔ (op.toNat = 0 ∨ (37 ≤ op.toNat ∧ op.toNat ≤ 254)) := by
  rw [← Option.isNone_iff_eq_none, opmap_operand op b 0#8]
  exact opmap_none_all op.toFin

/-- The decoder is the dispatch table applied to the two bytes. -/
theorem decode_eq (w : Word) : decode w =
    match Config.opmap (opcodeOf w) (operandOf w) with
    | some i => .ok i
    | none => .error (.invalidInstruction (opcodeOf w)) := by
  unfold decode
  rw [instrTable_eq_opmap _ (operandOf w)]
  cases Config.opmap (opcodeOf w) (operandOf w) <;> rfl

/-- The decoder accepts a Word exactly where the dispatch table has an instruction. -/
theorem decode_ok_iff (w : Word) (i : Instr) :
    decode w = .ok i ↔ Config.opmap (opcodeOf w) (operandOf w) = some i := by
  rw [decode_eq]
  cases Config.opmap (opcodeOf w) (operandOf w) <;> simp

namespace Machine

/-! ### The cycles' bodies -/

@[simp] theorem pcIncrement_slot {w : Word} (h : w.toNat < 256) :
    pcIncrement w = BitVec.ofNat 16 ((w.toNat + 1) % 256) := by
  simp [pcIncrement, Config.memSlots, Config.pcWrap, h]

/-- Fetch's micro-sequence at a slot: MAR, PC, MEM.ptr and MDR written, nothing else. -/
theorem fetchBody_slot {s : State} {p : SlotIndex} (h : s.pc.toNat = p.val) :
    fetchBody s =
      .next ((((s.withMar s.pc).withPc (BitVec.ofNat 16 ((s.pc.toNat + 1) % 256))).withPtr p).withMdr
        (Memory.read s.mem p)) := by
  have : s.pc.toNat < 256 := by have := p.isLt; omega
  simp only [fetchBody, setPtrFromMar, State.withPc_mar, State.withMar_mar, h, setPointer_slot, andThen_next,
    State.withMar_pc, pcIncrement_slot this]
  simp [readPtr]

/-- Fetch's micro-sequence at an address that is no slot. -/
theorem fetchBody_beyond {s : State} (h : 256 ≤ s.pc.toNat) :
    fetchBody s = .fault (.addressOutOfRange s.pc.toNat) := by
  simp [fetchBody, setPtrFromMar, setPointer_beyond h]

/-- Decode's micro-sequence for an opcode with an entry. -/
theorem decodeBody_entry {s : State} (h : Config.instrTable.contains (opcodeOf s.mdr) = true) :
    decodeBody s = .next ((s.withIr s.mdr).withCur (some (opcodeOf s.mdr))) := by
  simp only [decodeBody, State.withIr_ir, h, if_true]

/-- Decode's micro-sequence for an opcode with no entry. -/
theorem decodeBody_noEntry {s : State} (h : Config.instrTable.contains (opcodeOf s.mdr) = false) :
    decodeBody s = .fault (.invalidInstruction (opcodeOf s.mdr)) := by
  simp only [decodeBody, State.withIr_ir, h]
  rfl

/-- Execute's dispatch. -/
theorem executeBody_some {s : State} {i : Instr} (h : decode s.ir = .ok i) : executeBody s = exec i s := by
  rw [decode_ok_iff] at h
  simp [executeBody, h]

/-- Execute's dispatch with no entry. -/
theorem executeBody_none {s : State} (h : Config.opmap (opcodeOf s.ir) (operandOf s.ir) = none) :
    executeBody s = .fault (.invalidInstruction (opcodeOf s.ir)) := by
  simp [executeBody, h]

/-! ### The logical instruction and the run loop -/

/-- With ROLLBACK_UNIT the cycle, a logical instruction ends with what its cycles left. -/
@[simp] theorem rollBack_eq (start : State) (p : State × Reply) : rollBack start p = p := rfl

/-- `step()` is the three cycles in order, stopping at the first error. -/
theorem stepCommand_eq (s : State) : stepCommand s = ifDone (fetchDecode s) executeCommand := rfl

/-- HALT is not tested at the top of the loop. -/
@[simp] theorem haltsAt_loopTop (s : State) : haltsAt .loopTop s = false := by
  simp [haltsAt, Config.haltTestPoint]

/-- HALT is tested after Decode, on IR's opcode. -/
@[simp] theorem haltsAt_afterDecode (s : State) :
    haltsAt .afterDecode s = decide (opcodeOf s.ir = Config.haltOpcode) := by
  simp [haltsAt, Config.haltTestPoint]

/-- One iteration of the run loop that is not cancelled: Fetch and Decode, the test for HALT, Execute. -/
theorem runLoop_false (cancels : List Bool) (s : State) :
    runLoop (false :: cancels) s =
      match fetchDecode s with
      | (t, .error f) => (t, .error f)
      | (t, .refused q) => (t, .refused q)
      | (t, .done) =>
        if opcodeOf t.ir = Config.haltOpcode then (t, .halted)
        else
          match executeCommand t with
          | (u, .error f) => (u, .error f)
          | (u, .refused q) => (u, .refused q)
          | (u, .done) => runLoop cancels u := by
  simp only [runLoop, haltsAt_loopTop, haltsAt_afterDecode, rollBack_eq, Bool.false_eq_true, if_false, decide_eq_true_eq]
    <;> rfl

end Machine

end Sys2Proof
end

