-- ==== Sys2Proof/Laws/Exec.lean ====
section
/-! SUPPORT. exec, one equation per instruction down to the shared operation it is, and the shared operations in the
forms the instructions use them. -/

namespace Sys2Proof.Machine

/-! ### The dispatch -/

variable (b : Byte) (s : State)

@[simp] theorem exec_addImmA : exec (.addImmA b) s = computeInto .add .a (.immediate b) s := rfl
@[simp] theorem exec_addImmB : exec (.addImmB b) s = computeInto .add .b (.immediate b) s := rfl
@[simp] theorem exec_addDirA : exec (.addDirA b) s = computeInto .add .a (.direct b) s := rfl
@[simp] theorem exec_addDirB : exec (.addDirB b) s = computeInto .add .b (.direct b) s := rfl
@[simp] theorem exec_addBA : exec (.addBA b) s = computeInto .add .a .register s := rfl
@[simp] theorem exec_addAB : exec (.addAB b) s = computeInto .add .b .register s := rfl
@[simp] theorem exec_subImmA : exec (.subImmA b) s = computeInto .sub .a (.immediate b) s := rfl
@[simp] theorem exec_subImmB : exec (.subImmB b) s = computeInto .sub .b (.immediate b) s := rfl
@[simp] theorem exec_subDirA : exec (.subDirA b) s = computeInto .sub .a (.direct b) s := rfl
@[simp] theorem exec_subDirB : exec (.subDirB b) s = computeInto .sub .b (.direct b) s := rfl
@[simp] theorem exec_subBA : exec (.subBA b) s = computeInto .sub .a .register s := rfl
@[simp] theorem exec_subAB : exec (.subAB b) s = computeInto .sub .b .register s := rfl
@[simp] theorem exec_compareImmA : exec (.compareImmA b) s = compareWith .a (.immediate b) s := rfl
@[simp] theorem exec_compareImmB : exec (.compareImmB b) s = compareWith .b (.immediate b) s := rfl
@[simp] theorem exec_compareDirA : exec (.compareDirA b) s = compareWith .a (.direct b) s := rfl
@[simp] theorem exec_compareDirB : exec (.compareDirB b) s = compareWith .b (.direct b) s := rfl
@[simp] theorem exec_compareBA : exec (.compareBA b) s = compareWith .a .register s := rfl
@[simp] theorem exec_compareAB : exec (.compareAB b) s = compareWith .b .register s := rfl
@[simp] theorem exec_moveImmA : exec (.moveImmA b) s = .next (s.withGpr .a (b.setWidth 16)) := rfl
@[simp] theorem exec_moveImmB : exec (.moveImmB b) s = .next (s.withGpr .b (b.setWidth 16)) := rfl
@[simp] theorem exec_moveDirToA : exec (.moveDirToA b) s = loadReg b .a s := rfl
@[simp] theorem exec_moveDirToB : exec (.moveDirToB b) s = loadReg b .b s := rfl
@[simp] theorem exec_moveAToDir : exec (.moveAToDir b) s = storeReg (b.setWidth 16) .a s := rfl
@[simp] theorem exec_moveBToDir : exec (.moveBToDir b) s = storeReg (b.setWidth 16) .b s := rfl
@[simp] theorem exec_moveAToInd : exec (.moveAToInd b) s = storeIndirect b .a s := rfl
@[simp] theorem exec_moveBToInd : exec (.moveBToInd b) s = storeIndirect b .b s := rfl
@[simp] theorem exec_jmpImm : exec (.jmpImm b) s = .next (s.withPc (b.setWidth 16)) := rfl
@[simp] theorem exec_jmpDir : exec (.jmpDir b) s = andThen (readInto (b.setWidth 16) s) fun s => .next (s.withPc s.mdr) :=
  rfl
@[simp] theorem exec_bcs : exec (.bcs b) s = branchIf s.psr.c b s := rfl
@[simp] theorem exec_bcc : exec (.bcc b) s = branchIf (!s.psr.c) b s := rfl
@[simp] theorem exec_bns : exec (.bns b) s = branchIf s.psr.n b s := rfl
@[simp] theorem exec_bnc : exec (.bnc b) s = branchIf (!s.psr.n) b s := rfl
@[simp] theorem exec_bzs : exec (.bzs b) s = branchIf s.psr.z b s := rfl
@[simp] theorem exec_bzc : exec (.bzc b) s = branchIf (!s.psr.z) b s := rfl
@[simp] theorem exec_bvs : exec (.bvs b) s = branchIf s.psr.v b s := rfl
@[simp] theorem exec_bvc : exec (.bvc b) s = branchIf (!s.psr.v) b s := rfl
@[simp] theorem exec_halt : exec (.halt b) s = .next s := rfl

/-! ### The shared operations -/

/-- ADD: the sum in the destination, the flags of the Add circuit. -/
@[simp] theorem computeInto_add (r : Gpr) (src : Source) :
    computeInto .add r src s =
      .next ((((afterSource src s).withAlu ⟨s.gpr r, sourceWord src r s, .add, (addCircuit (s.gpr r) (sourceWord src r s)).r⟩).withPsr
        (flagsOf (addCircuit (s.gpr r) (sourceWord src r s)))).withGpr r (addCircuit (s.gpr r) (sourceWord src r s)).r) :=
  computeInto_some rfl

/-- SUB: the difference in the destination, the flags of the Sub circuit. -/
@[simp] theorem computeInto_sub (r : Gpr) (src : Source) :
    computeInto .sub r src s =
      .next ((((afterSource src s).withAlu ⟨s.gpr r, sourceWord src r s, .sub, (subCircuit (s.gpr r) (sourceWord src r s)).r⟩).withPsr
        (flagsOf (subCircuit (s.gpr r) (sourceWord src r s)))).withGpr r (subCircuit (s.gpr r) (sourceWord src r s)).r) :=
  computeInto_some rfl

/-- A MOVE load: the slot in MDR and in the register. -/
@[simp] theorem loadReg_eq (r : Gpr) :
    loadReg b r s =
      .next ((((s.withMar (b.setWidth 16)).withPtr (slotOf b)).withMdr (Memory.read s.mem b.toNat)).withGpr r
        (Memory.read s.mem b.toNat)) := by
  simp [loadReg]

/-- A branch: PC written or nothing. -/
theorem branchIf_eq (guard : Bool) :
    branchIf guard b s = .next (if guard = true then s.withPc (b.setWidth 16) else s) := by
  cases guard <;> rfl

/-- An indirect store either writes the slot its pointer names or raises. -/
theorem storeIndirect_cases (r : Gpr) :
    (∃ p : SlotIndex, (Memory.read s.mem b.toNat).toNat = p.val ∧
      storeIndirect b r s =
        .next ((((s.withMar (Memory.read s.mem b.toNat)).withPtr p).withMdr (s.gpr r)).withMem
          (Memory.write s.mem p (s.gpr r)))) ∨
    (256 ≤ (Memory.read s.mem b.toNat).toNat ∧
      storeIndirect b r s = .fault (.addressOutOfRange (Memory.read s.mem b.toNat).toNat)) := by
  rcases slot_or_beyond (Memory.read s.mem b.toNat) with ⟨p, h⟩ | h
  · exact .inl ⟨p, h, storeIndirect_slot h r⟩
  · exact .inr ⟨h, storeIndirect_beyond h r⟩

section
variable (src : Source)
@[simp] theorem afterSource_pc : (afterSource src s).pc = s.pc := by cases src <;> rfl
@[simp] theorem afterSource_ir : (afterSource src s).ir = s.ir := by cases src <;> rfl
@[simp] theorem afterSource_gpa : (afterSource src s).gpa = s.gpa := by cases src <;> rfl
@[simp] theorem afterSource_gpb : (afterSource src s).gpb = s.gpb := by cases src <;> rfl
@[simp] theorem afterSource_mem : (afterSource src s).mem = s.mem := by cases src <;> rfl
@[simp] theorem afterSource_phase : (afterSource src s).phase = s.phase := by cases src <;> rfl
@[simp] theorem afterSource_cur : (afterSource src s).cur = s.cur := by cases src <;> rfl
end

/-! ### What exec can answer -/

/-- exec completes, or it is an indirect store whose pointer Word is no slot. -/
theorem exec_next_or_fault (i : Instr) (s : State) :
    (∃ t, exec i s = .next t) ∨
    ∃ b, (i = .moveAToInd b ∨ i = .moveBToInd b) ∧ 256 ≤ (Memory.read s.mem b.toNat).toNat ∧
      exec i s = .fault (.addressOutOfRange (Memory.read s.mem b.toNat).toNat) := by
  cases i
  case moveAToInd b =>
    rcases storeIndirect_cases b s .a with ⟨p, -, h⟩ | ⟨hb, h⟩
    · exact .inl ⟨_, h⟩
    · exact .inr ⟨b, .inl rfl, hb, h⟩
  case moveBToInd b =>
    rcases storeIndirect_cases b s .b with ⟨p, -, h⟩ | ⟨hb, h⟩
    · exact .inl ⟨_, h⟩
    · exact .inr ⟨b, .inr rfl, hb, h⟩
  all_goals
    left
    simp [compareWith_eq, branchIf_eq]

/-- IR, ENG.phase and ENG.cur are no instruction's to write. -/
theorem exec_keeps_engine {i : Instr} {s t : State} (h : exec i s = .next t) :
    t.ir = s.ir ∧ t.phase = s.phase ∧ t.cur = s.cur := by
  cases i
  case moveAToInd b => rcases storeIndirect_cases b s .a with ⟨p, -, h'⟩ | ⟨-, h'⟩ <;> (simp_all; try simp [← h])
  case moveBToInd b => rcases storeIndirect_cases b s .b with ⟨p, -, h'⟩ | ⟨-, h'⟩ <;> (simp_all; try simp [← h])
  all_goals
    simp [compareWith_eq, branchIf_eq] at h
    subst h
    first
      | simp
      | split <;> simp

end Sys2Proof.Machine
end

