-- ==== Sys2Proof/Laws/PerInstr.lean ====
section
/-! SUPPORT. The family EncodedWord: one lemma per constructor of Instr. -/

namespace Sys2Proof.Laws.EncodedWord

/-- The Word an instruction is encoded as carries its opcode byte in bits 15..8 and its operand byte in bits 7..0
(30_encoding.md R91), and the instruction-set table has an entry for it (41_sequencer.md R164). -/
def Statement (i : Instr) : Prop :=
  opcodeOf (encode i) = i.opcode ∧ operandOf (encode i) = i.operand ∧ i.wellFormed = true

/-- The shared argument: the two bytes of a Word are read back as they were put in. -/
theorem of_opcode (i : Instr) : Statement i :=
  ⟨opcodeOf_wordOf _ _, operandOf_wordOf _ _, instrTable_opcode i⟩

theorem addImmA (b : Byte) : Statement (.addImmA b) := of_opcode _
theorem addImmB (b : Byte) : Statement (.addImmB b) := of_opcode _
theorem addDirA (b : Byte) : Statement (.addDirA b) := of_opcode _
theorem addDirB (b : Byte) : Statement (.addDirB b) := of_opcode _
theorem addBA (b : Byte) : Statement (.addBA b) := of_opcode _
theorem addAB (b : Byte) : Statement (.addAB b) := of_opcode _
theorem subImmA (b : Byte) : Statement (.subImmA b) := of_opcode _
theorem subImmB (b : Byte) : Statement (.subImmB b) := of_opcode _
theorem subDirA (b : Byte) : Statement (.subDirA b) := of_opcode _
theorem subDirB (b : Byte) : Statement (.subDirB b) := of_opcode _
theorem subBA (b : Byte) : Statement (.subBA b) := of_opcode _
theorem subAB (b : Byte) : Statement (.subAB b) := of_opcode _
theorem compareImmA (b : Byte) : Statement (.compareImmA b) := of_opcode _
theorem compareImmB (b : Byte) : Statement (.compareImmB b) := of_opcode _
theorem compareDirA (b : Byte) : Statement (.compareDirA b) := of_opcode _
theorem compareDirB (b : Byte) : Statement (.compareDirB b) := of_opcode _
theorem compareBA (b : Byte) : Statement (.compareBA b) := of_opcode _
theorem compareAB (b : Byte) : Statement (.compareAB b) := of_opcode _
theorem moveImmA (b : Byte) : Statement (.moveImmA b) := of_opcode _
theorem moveImmB (b : Byte) : Statement (.moveImmB b) := of_opcode _
theorem moveDirToA (b : Byte) : Statement (.moveDirToA b) := of_opcode _
theorem moveDirToB (b : Byte) : Statement (.moveDirToB b) := of_opcode _
theorem moveAToDir (b : Byte) : Statement (.moveAToDir b) := of_opcode _
theorem moveBToDir (b : Byte) : Statement (.moveBToDir b) := of_opcode _
theorem moveAToInd (b : Byte) : Statement (.moveAToInd b) := of_opcode _
theorem moveBToInd (b : Byte) : Statement (.moveBToInd b) := of_opcode _
theorem jmpImm (b : Byte) : Statement (.jmpImm b) := of_opcode _
theorem jmpDir (b : Byte) : Statement (.jmpDir b) := of_opcode _
theorem bcs (b : Byte) : Statement (.bcs b) := of_opcode _
theorem bcc (b : Byte) : Statement (.bcc b) := of_opcode _
theorem bns (b : Byte) : Statement (.bns b) := of_opcode _
theorem bnc (b : Byte) : Statement (.bnc b) := of_opcode _
theorem bzs (b : Byte) : Statement (.bzs b) := of_opcode _
theorem bzc (b : Byte) : Statement (.bzc b) := of_opcode _
theorem bvs (b : Byte) : Statement (.bvs b) := of_opcode _
theorem bvc (b : Byte) : Statement (.bvc b) := of_opcode _
theorem halt (b : Byte) : Statement (.halt b) := of_opcode _

end Sys2Proof.Laws.EncodedWord
end

