-- ==== Sys2Proof/Tests/Slice0.lean ====
section
/-! SUPPORT. The model's own tests: what each check of WellFormed refuses, one Word for every constructor written out
from the table of 30_encoding.md R96, single steps with the results of 95_test_vectors.md, and, for every obligation
with hypotheses, a concrete state and operands that meet them. -/

namespace Sys2Proof.Tests

open Sys2Proof.Machine Sys2Proof.Spec

/-- The next state, if the outcome has one. -/
def nextOf (r : Result) : Option State :=
  match r with
  | .next t => some t
  | .fault _ | .refused _ => none

/-- The fault, if the outcome is one. -/
def faultOf (r : Result) : Option Fault :=
  match r with
  | .fault f => some f
  | .next _ | .refused _ => none

/-- The reset state with the given memory. -/
def withSlots (m : Memory) : State := { State.reset with mem := m }

/-! ### WellFormed: each check refuses an ill-formed term -/

theorem test_wf_table_without_the_opcode : (Instr.addImmA 0x05#8).wellFormedIn [0x02#8, 0xFF#8] = false := by decide
theorem test_wf_table_with_the_opcode : (Instr.addImmA 0x05#8).wellFormedIn [0x02#8, 0x01#8] = true := by decide
theorem test_assembler_refuses_operand_of_register_form : (Instr.addBA 0x01#8).assemblerForm = false := by decide
theorem test_assembler_refuses_operand_of_halt : (Instr.halt 0xAB#8).assemblerForm = false := by decide
theorem test_assembler_accepts_halt : (Instr.halt 0x00#8).assemblerForm = true := by decide

theorem test_program_refused_without_org :
    Program.startsWithOrg { org := 0x010A#16, words := [0xFF00#16] } = false := by decide
theorem test_program_refused_without_halt :
    Program.endsWithHalt { org := 0x000A#16, words := [0x0105#16] } = false := by decide
theorem test_program_refused_with_no_words : Program.endsWithHalt { org := 0x000A#16, words := [] } = false := by decide
theorem test_program_refused_with_illegal_word :
    Program.allDecode { org := 0x000A#16, words := [0x2500#16, 0xFF00#16] } = false := by decide
theorem test_program_refused_when_too_long :
    Program.fits { org := 0x00FF#16, words := [0x1301#16, 0xFF00#16] } = false := by decide
/-- The words of worked example S3. -/
theorem test_program_s3_is_well_formed : Program.wellFormed { org := 0x000A#16, words := [0xFF00#16] } = true := by decide

/-! ### Decoding: a Word of every constructor, written out from R96 -/

theorem test_decode_addImmA : decode 0b00000001_00000101#16 = .ok (.addImmA 0x05#8) := by decide
theorem test_decode_addImmB : decode 0b00000010_10000000#16 = .ok (.addImmB 0x80#8) := by decide
theorem test_decode_addDirA : decode 0b00000011_00000001#16 = .ok (.addDirA 0x01#8) := by decide
theorem test_decode_addDirB : decode 0b00000100_11111111#16 = .ok (.addDirB 0xFF#8) := by decide
theorem test_decode_addBA : decode 0b00000101_00000000#16 = .ok (.addBA 0x00#8) := by decide
theorem test_decode_addAB : decode 0b00000110_01011010#16 = .ok (.addAB 0x5A#8) := by decide
theorem test_decode_subImmA : decode 0b00000111_00000101#16 = .ok (.subImmA 0x05#8) := by decide
theorem test_decode_subImmB : decode 0b00001000_10000000#16 = .ok (.subImmB 0x80#8) := by decide
theorem test_decode_subDirA : decode 0b00001001_00000001#16 = .ok (.subDirA 0x01#8) := by decide
theorem test_decode_subDirB : decode 0b00001010_11111111#16 = .ok (.subDirB 0xFF#8) := by decide
theorem test_decode_subBA : decode 0b00001011_00000000#16 = .ok (.subBA 0x00#8) := by decide
theorem test_decode_subAB : decode 0b00001100_01011010#16 = .ok (.subAB 0x5A#8) := by decide
theorem test_decode_compareImmA : decode 0b00001101_00000101#16 = .ok (.compareImmA 0x05#8) := by decide
theorem test_decode_compareImmB : decode 0b00001110_10000000#16 = .ok (.compareImmB 0x80#8) := by decide
theorem test_decode_compareDirA : decode 0b00001111_00000001#16 = .ok (.compareDirA 0x01#8) := by decide
theorem test_decode_compareDirB : decode 0b00010000_11111111#16 = .ok (.compareDirB 0xFF#8) := by decide
theorem test_decode_compareBA : decode 0b00010001_00000000#16 = .ok (.compareBA 0x00#8) := by decide
theorem test_decode_compareAB : decode 0b00010010_01011010#16 = .ok (.compareAB 0x5A#8) := by decide
theorem test_decode_moveImmA : decode 0b00010011_00000101#16 = .ok (.moveImmA 0x05#8) := by decide
theorem test_decode_moveImmB : decode 0b00010100_10000000#16 = .ok (.moveImmB 0x80#8) := by decide
theorem test_decode_moveDirToA : decode 0b00010101_00000001#16 = .ok (.moveDirToA 0x01#8) := by decide
theorem test_decode_moveDirToB : decode 0b00010110_11111111#16 = .ok (.moveDirToB 0xFF#8) := by decide
theorem test_decode_moveAToDir : decode 0b00010111_00000000#16 = .ok (.moveAToDir 0x00#8) := by decide
theorem test_decode_moveBToDir : decode 0b00011000_01011010#16 = .ok (.moveBToDir 0x5A#8) := by decide
theorem test_decode_moveAToInd : decode 0b00011001_00000101#16 = .ok (.moveAToInd 0x05#8) := by decide
theorem test_decode_moveBToInd : decode 0b00011010_10000000#16 = .ok (.moveBToInd 0x80#8) := by decide
theorem test_decode_jmpImm : decode 0b00011011_00000001#16 = .ok (.jmpImm 0x01#8) := by decide
theorem test_decode_jmpDir : decode 0b00011100_11111111#16 = .ok (.jmpDir 0xFF#8) := by decide
theorem test_decode_bcs : decode 0b00011101_00000000#16 = .ok (.bcs 0x00#8) := by decide
theorem test_decode_bcc : decode 0b00011110_01011010#16 = .ok (.bcc 0x5A#8) := by decide
theorem test_decode_bns : decode 0b00011111_00000101#16 = .ok (.bns 0x05#8) := by decide
theorem test_decode_bnc : decode 0b00100000_10000000#16 = .ok (.bnc 0x80#8) := by decide
theorem test_decode_bzs : decode 0b00100001_00000001#16 = .ok (.bzs 0x01#8) := by decide
theorem test_decode_bzc : decode 0b00100010_11111111#16 = .ok (.bzc 0xFF#8) := by decide
theorem test_decode_bvs : decode 0b00100011_00000000#16 = .ok (.bvs 0x00#8) := by decide
theorem test_decode_bvc : decode 0b00100100_01011010#16 = .ok (.bvc 0x5A#8) := by decide
theorem test_decode_halt : decode 0b11111111_00000101#16 = .ok (.halt 0x05#8) := by decide

theorem test_decode_refuses_0x00 : decode 0b00000000_00001010#16 = .error (.invalidInstruction 0x00#8) := by decide
theorem test_decode_refuses_0x25 : decode 0b00100101_00000000#16 = .error (.invalidInstruction 0x25#8) := by decide
theorem test_decode_refuses_0x2E : decode 0b00101110_00000000#16 = .error (.invalidInstruction 0x2E#8) := by decide
theorem test_decode_refuses_0xFE : decode 0b11111110_00010010#16 = .error (.invalidInstruction 0xFE#8) := by decide
theorem test_table_word : decodeTableWord 16 0x1930 = some (.moveAToInd 0x30#8) := by decide
theorem test_table_word_refused : decodeTableWord 16 0x2E00 = none := by decide
theorem test_table_word_of_eight_bits : decodeTableWord 8 0xFF = none := by decide

/-! ### Single steps (95_test_vectors.md sections 2.3 to 2.5) -/

/-- Vector E1. -/
theorem test_E1_addImmA :
    nextOf (exec (.addImmA 0x05#8) State.reset) =
      some { State.reset with
        gpa := 0x0005#16
        alu := { State.reset.alu with y := 0x0005#16, z := 0x0005#16 } } := by decide

/-- Vector E5. -/
theorem test_E5_addImmA :
    nextOf (exec (.addImmA 0xFF#8) { State.reset with gpa := 0x0001#16 }) =
      some { State.reset with
        gpa := 0x0100#16
        alu := { State.reset.alu with x := 0x0001#16, y := 0x00FF#16, z := 0x0100#16 } } := by decide

/-- Vector E6. -/
theorem test_E6_addImmB :
    nextOf (exec (.addImmB 0xFF#8) { State.reset with gpb := 0x7F01#16 }) =
      some { State.reset with
        gpb := 0x8000#16
        alu := { State.reset.alu with x := 0x7F01#16, y := 0x00FF#16, z := 0x8000#16 }
        psr := { State.reset.psr with n := true, v := true } } := by decide

/-- Vector E7. -/
theorem test_E7_addDirA :
    nextOf (exec (.addDirA 0x10#8) { State.reset with gpa := 0x0003#16, mem := [(0x10, 0x0007#16)] }) =
      some { State.reset with
        gpa := 0x000A#16, mar := 0x0010#16, mdr := 0x0007#16, ptr := 16
        alu := { State.reset.alu with x := 0x0003#16, y := 0x0007#16, z := 0x000A#16 }
        mem := [(0x10, 0x0007#16)] } := by decide

/-- Vector E9. -/
theorem test_E9_addDirB :
    nextOf (exec (.addDirB 0x20#8) { State.reset with gpb := 0x8000#16, mem := [(0x20, 0x8000#16)] }) =
      some { State.reset with
        gpb := 0x0000#16, mar := 0x0020#16, mdr := 0x8000#16, ptr := 32
        alu := { State.reset.alu with x := 0x8000#16, y := 0x8000#16 }
        psr := { State.reset.psr with c := true, z := true, v := true }
        mem := [(0x20, 0x8000#16)] } := by decide

/-- Vector E10. -/
theorem test_E10_addBA :
    nextOf (exec (.addBA 0x00#8) { State.reset with gpa := 0x0001#16, gpb := 0xFFFF#16 }) =
      some { State.reset with
        gpa := 0x0000#16, gpb := 0xFFFF#16
        alu := { State.reset.alu with x := 0x0001#16, y := 0xFFFF#16 }
        psr := { State.reset.psr with c := true, z := true } } := by decide

/-- Vector E11. -/
theorem test_E11_addBA :
    nextOf (exec (.addBA 0xAB#8) { State.reset with gpa := 0x0001#16, gpb := 0xFFFF#16 }) =
      some { State.reset with
        gpa := 0x0000#16, gpb := 0xFFFF#16
        alu := { State.reset.alu with x := 0x0001#16, y := 0xFFFF#16 }
        psr := { State.reset.psr with c := true, z := true } } := by decide

/-- Vector E12. -/
theorem test_E12_addAB :
    nextOf (exec (.addAB 0x00#8) { State.reset with gpa := 0x0002#16, gpb := 0x0003#16 }) =
      some { State.reset with
        gpa := 0x0002#16, gpb := 0x0005#16
        alu := { State.reset.alu with x := 0x0003#16, y := 0x0002#16, z := 0x0005#16 } } := by decide

/-- Vector E14. -/
theorem test_E14_subImmA :
    nextOf (exec (.subImmA 0x01#8) { State.reset with gpa := 0x0000#16 }) =
      some { State.reset with
        gpa := 0xFFFF#16
        alu := { State.reset.alu with y := 0x0001#16, circuit := .sub, z := 0xFFFF#16 }
        psr := { State.reset.psr with c := true, n := true } } := by decide

/-- Vector E15. -/
theorem test_E15_subImmA :
    nextOf (exec (.subImmA 0x01#8) { State.reset with gpa := 0x8000#16 }) =
      some { State.reset with
        gpa := 0x7FFF#16
        alu := { State.reset.alu with x := 0x8000#16, y := 0x0001#16, circuit := .sub, z := 0x7FFF#16 }
        psr := { State.reset.psr with v := true } } := by decide

/-- Vector E17. -/
theorem test_E17_subImmB :
    nextOf (exec (.subImmB 0x01#8) { State.reset with gpb := 0x0001#16 }) =
      some { State.reset with
        gpb := 0x0000#16
        alu := { State.reset.alu with x := 0x0001#16, y := 0x0001#16, circuit := .sub }
        psr := { State.reset.psr with z := true } } := by decide

/-- Vector E18. -/
theorem test_E18_subDirA :
    nextOf (exec (.subDirA 0x10#8) { State.reset with gpa := 0x0005#16, mem := [(0x10, 0x0007#16)] }) =
      some { State.reset with
        gpa := 0xFFFE#16, mar := 0x0010#16, mdr := 0x0007#16, ptr := 16
        alu := { State.reset.alu with x := 0x0005#16, y := 0x0007#16, circuit := .sub, z := 0xFFFE#16 }
        psr := { State.reset.psr with c := true, n := true }
        mem := [(0x10, 0x0007#16)] } := by decide

/-- Vector E19. -/
theorem test_E19_subDirB :
    nextOf (exec (.subDirB 0x10#8) { State.reset with gpb := 0x7FFF#16, mem := [(0x10, 0xFFFF#16)] }) =
      some { State.reset with
        gpb := 0x8000#16, mar := 0x0010#16, mdr := 0xFFFF#16, ptr := 16
        alu := { State.reset.alu with x := 0x7FFF#16, y := 0xFFFF#16, circuit := .sub, z := 0x8000#16 }
        psr := { State.reset.psr with c := true, n := true, v := true }
        mem := [(0x10, 0xFFFF#16)] } := by decide

/-- Vector E20. -/
theorem test_E20_subBA :
    nextOf (exec (.subBA 0x00#8) { State.reset with gpa := 0x000A#16, gpb := 0x0003#16 }) =
      some { State.reset with
        gpa := 0x0007#16, gpb := 0x0003#16
        alu := { State.reset.alu with x := 0x000A#16, y := 0x0003#16, circuit := .sub, z := 0x0007#16 } } := by decide

/-- Vector E22. -/
theorem test_E22_subAB :
    nextOf (exec (.subAB 0x00#8) { State.reset with gpa := 0x0005#16, gpb := 0x0003#16 }) =
      some { State.reset with
        gpa := 0x0005#16, gpb := 0xFFFE#16
        alu := { State.reset.alu with x := 0x0003#16, y := 0x0005#16, circuit := .sub, z := 0xFFFE#16 }
        psr := { State.reset.psr with c := true, n := true } } := by decide

/-- Vector E24. -/
theorem test_E24_compareImmA :
    nextOf (exec (.compareImmA 0x05#8) { State.reset with gpa := 0x0004#16 }) =
      some { State.reset with
        gpa := 0x0004#16
        alu := { State.reset.alu with x := 0x0004#16, y := 0x0005#16, circuit := .sub, z := 0xFFFF#16 }
        psr := { State.reset.psr with c := true, n := true } } := by decide

/-- Vector E26. -/
theorem test_E26_compareImmA :
    nextOf (exec (.compareImmA 0xFF#8) { State.reset with gpa := 0xFFFF#16 }) =
      some { State.reset with
        gpa := 0xFFFF#16
        alu := { State.reset.alu with x := 0xFFFF#16, y := 0x00FF#16, circuit := .sub, z := 0xFF00#16 }
        psr := { State.reset.psr with n := true } } := by decide

/-- Vector E27. -/
theorem test_E27_compareImmB :
    nextOf (exec (.compareImmB 0x0A#8) { State.reset with gpb := 0x0003#16 }) =
      some { State.reset with
        gpb := 0x0003#16
        alu := { State.reset.alu with x := 0x0003#16, y := 0x000A#16, circuit := .sub, z := 0xFFF9#16 }
        psr := { State.reset.psr with c := true, n := true } } := by decide

/-- Vector E28. -/
theorem test_E28_compareDirA :
    nextOf (exec (.compareDirA 0x10#8) { State.reset with gpa := 0x8000#16, mem := [(0x10, 0x0001#16)] }) =
      some { State.reset with
        gpa := 0x8000#16, mar := 0x0010#16, mdr := 0x0001#16, ptr := 16
        alu := { State.reset.alu with x := 0x8000#16, y := 0x0001#16, circuit := .sub, z := 0x7FFF#16 }
        psr := { State.reset.psr with v := true }
        mem := [(0x10, 0x0001#16)] } := by decide

/-- Vector E29. -/
theorem test_E29_compareDirB :
    nextOf (exec (.compareDirB 0x10#8) { State.reset with gpb := 0x0002#16, mem := [(0x10, 0x0002#16)] }) =
      some { State.reset with
        gpb := 0x0002#16, mar := 0x0010#16, mdr := 0x0002#16, ptr := 16
        alu := { State.reset.alu with x := 0x0002#16, y := 0x0002#16, circuit := .sub }
        psr := { State.reset.psr with z := true }
        mem := [(0x10, 0x0002#16)] } := by decide

/-- Vector E30. -/
theorem test_E30_compareBA :
    nextOf (exec (.compareBA 0x00#8) { State.reset with gpa := 0x0001#16, gpb := 0x0002#16 }) =
      some { State.reset with
        gpa := 0x0001#16, gpb := 0x0002#16
        alu := { State.reset.alu with x := 0x0001#16, y := 0x0002#16, circuit := .sub, z := 0xFFFF#16 }
        psr := { State.reset.psr with c := true, n := true } } := by decide

/-- Vector E31. -/
theorem test_E31_compareAB :
    nextOf (exec (.compareAB 0x00#8) { State.reset with gpa := 0x0001#16, gpb := 0x0002#16 }) =
      some { State.reset with
        gpa := 0x0001#16, gpb := 0x0002#16
        alu := { State.reset.alu with x := 0x0002#16, y := 0x0001#16, circuit := .sub, z := 0x0001#16 } } := by decide

/-- Vector M1. -/
theorem test_M1_moveImmA :
    nextOf (exec (.moveImmA 0xFF#8) { State.reset with gpa := 0x1234#16, psr := { State.reset.psr with z := true, c := true } }) =
      some { State.reset with gpa := 0x00FF#16, psr := { State.reset.psr with z := true, c := true } } := by decide

/-- Vector M2. -/
theorem test_M2_moveImmB :
    nextOf (exec (.moveImmB 0x00#8) { State.reset with gpb := 0xFFFF#16 }) =
      some { State.reset with gpb := 0x0000#16 } := by decide

/-- Vector M3. -/
theorem test_M3_moveDirToA :
    nextOf (exec (.moveDirToA 0x10#8) { State.reset with mem := [(0x10, 0xBEEF#16)] }) =
      some { State.reset with
        mar := 0x0010#16, mdr := 0xBEEF#16, gpa := 0xBEEF#16, ptr := 16
        mem := [(0x10, 0xBEEF#16)] } := by decide

/-- Vector M4. -/
theorem test_M4_moveDirToB :
    nextOf (exec (.moveDirToB 0xFF#8) { State.reset with mem := [(0xFF, 0x1234#16)] }) =
      some { State.reset with
        mar := 0x00FF#16, mdr := 0x1234#16, gpb := 0x1234#16, ptr := 255
        mem := [(0xFF, 0x1234#16)] } := by decide

/-- Vector M5. -/
theorem test_M5_moveAToDir :
    nextOf (exec (.moveAToDir 0x20#8) { State.reset with gpa := 0x0005#16 }) =
      some { State.reset with
        gpa := 0x0005#16, mar := 0x0020#16, mdr := 0x0005#16, ptr := 32
        mem := [(0x20, 0x0005#16)] } := by decide

/-- Vector M6. -/
theorem test_M6_moveAToDir :
    nextOf (exec (.moveAToDir 0x00#8) { State.reset with gpa := 0xFF00#16, mem := [(0x00, 0x1700#16)] }) =
      some { State.reset with gpa := 0xFF00#16, mdr := 0xFF00#16, mem := [(0x00, 0xFF00#16)] } := by decide

/-- Vector M7. -/
theorem test_M7_moveBToDir :
    nextOf (exec (.moveBToDir 0x21#8) { State.reset with gpb := 0xFFFF#16 }) =
      some { State.reset with
        gpb := 0xFFFF#16, mar := 0x0021#16, mdr := 0xFFFF#16, ptr := 33
        mem := [(0x21, 0xFFFF#16)] } := by decide

/-- Vector M8. -/
theorem test_M8_moveAToInd :
    nextOf (exec (.moveAToInd 0x30#8) { State.reset with gpa := 0x0007#16, mem := [(0x30, 0x0040#16)] }) =
      some { State.reset with
        gpa := 0x0007#16, mar := 0x0040#16, mdr := 0x0007#16, ptr := 64
        mem := [(0x30, 0x0040#16), (0x40, 0x0007#16)] } := by decide

/-- Vector M11. -/
theorem test_M11_moveAToInd :
    faultOf (exec (.moveAToInd 0x30#8) { State.reset with
        gpa := 0x0001#16, mar := 0x0002#16, mdr := 0x1930#16, ptr := 2
        mem := [(0x30, 0x0100#16)] }) =
      some (.addressOutOfRange 0x0100) := by decide

/-- Vector M13. -/
theorem test_M13_moveBToInd :
    faultOf (exec (.moveBToInd 0x30#8) { State.reset with gpb := 0x0001#16, mem := [(0x30, 0x0100#16)] }) =
      some (.addressOutOfRange 0x0100) := by decide

/-- Vector M14. -/
theorem test_M14_moveBToInd :
    nextOf (exec (.moveBToInd 0x30#8) { State.reset with gpb := 0xABCD#16, mem := [(0x30, 0x00FF#16)] }) =
      some { State.reset with
        gpb := 0xABCD#16, mar := 0x00FF#16, mdr := 0xABCD#16, ptr := 255
        mem := [(0x30, 0x00FF#16), (0xFF, 0xABCD#16)] } := by decide

/-- Vector J1. -/
theorem test_J1_jmpImm :
    nextOf (exec (.jmpImm 0x05#8) { State.reset with pc := 0x0003#16 }) =
      some { State.reset with pc := 0x0005#16 } := by decide

/-- Vector J4. -/
theorem test_J4_jmpDir :
    nextOf (exec (.jmpDir 0x40#8) { State.reset with pc := 0x0003#16, mem := [(0x40, 0x0010#16)] }) =
      some { State.reset with
        pc := 0x0010#16, mar := 0x0040#16, mdr := 0x0010#16, ptr := 64
        mem := [(0x40, 0x0010#16)] } := by decide

/-- Vector J5. -/
theorem test_J5_jmpDir :
    nextOf (exec (.jmpDir 0x40#8) { State.reset with pc := 0x0003#16, mem := [(0x40, 0x1234#16)] }) =
      some { State.reset with
        pc := 0x1234#16, mar := 0x0040#16, mdr := 0x1234#16, ptr := 64
        mem := [(0x40, 0x1234#16)] } := by decide

/-- Vector J6. -/
theorem test_J6_bcs :
    nextOf (exec (.bcs 0x08#8) { State.reset with pc := 0x0003#16, psr := { State.reset.psr with c := true } }) =
      some { State.reset with pc := 0x0008#16, psr := { State.reset.psr with c := true } } := by decide

/-- Vector J7. -/
theorem test_J7_bcs :
    nextOf (exec (.bcs 0x08#8) { State.reset with pc := 0x0003#16 }) =
      some { State.reset with pc := 0x0003#16 } := by decide

/-- Vector J8. -/
theorem test_J8_bcc :
    nextOf (exec (.bcc 0x08#8) { State.reset with pc := 0x0003#16, psr := { State.reset.psr with c := true } }) =
      some { State.reset with pc := 0x0003#16, psr := { State.reset.psr with c := true } } := by decide

/-- Vector J9. -/
theorem test_J9_bcc :
    nextOf (exec (.bcc 0x08#8) { State.reset with pc := 0x0003#16 }) =
      some { State.reset with pc := 0x0008#16 } := by decide

/-- Vector J10. -/
theorem test_J10_bns :
    nextOf (exec (.bns 0x08#8) { State.reset with pc := 0x0003#16, psr := { State.reset.psr with n := true } }) =
      some { State.reset with pc := 0x0008#16, psr := { State.reset.psr with n := true } } := by decide

/-- Vector J11. -/
theorem test_J11_bns :
    nextOf (exec (.bns 0x08#8) { State.reset with pc := 0x0003#16 }) =
      some { State.reset with pc := 0x0003#16 } := by decide

/-- Vector J12. -/
theorem test_J12_bnc :
    nextOf (exec (.bnc 0x08#8) { State.reset with pc := 0x0003#16, psr := { State.reset.psr with n := true } }) =
      some { State.reset with pc := 0x0003#16, psr := { State.reset.psr with n := true } } := by decide

/-- Vector J13. -/
theorem test_J13_bnc :
    nextOf (exec (.bnc 0x08#8) { State.reset with pc := 0x0003#16 }) =
      some { State.reset with pc := 0x0008#16 } := by decide

/-- Vector J14. -/
theorem test_J14_bzs :
    nextOf (exec (.bzs 0x08#8) { State.reset with pc := 0x0003#16, psr := { State.reset.psr with z := true } }) =
      some { State.reset with pc := 0x0008#16, psr := { State.reset.psr with z := true } } := by decide

/-- Vector J15. -/
theorem test_J15_bzs :
    nextOf (exec (.bzs 0x08#8) { State.reset with pc := 0x0003#16 }) =
      some { State.reset with pc := 0x0003#16 } := by decide

/-- Vector J16. -/
theorem test_J16_bzc :
    nextOf (exec (.bzc 0x08#8) { State.reset with pc := 0x0003#16, psr := { State.reset.psr with z := true } }) =
      some { State.reset with pc := 0x0003#16, psr := { State.reset.psr with z := true } } := by decide

/-- Vector J17. -/
theorem test_J17_bzc :
    nextOf (exec (.bzc 0x08#8) { State.reset with pc := 0x0003#16 }) =
      some { State.reset with pc := 0x0008#16 } := by decide

/-- Vector J18. -/
theorem test_J18_bvs :
    nextOf (exec (.bvs 0x08#8) { State.reset with pc := 0x0003#16, psr := { State.reset.psr with v := true } }) =
      some { State.reset with pc := 0x0008#16, psr := { State.reset.psr with v := true } } := by decide

/-- Vector J19. -/
theorem test_J19_bvs :
    nextOf (exec (.bvs 0x08#8) { State.reset with pc := 0x0003#16 }) =
      some { State.reset with pc := 0x0003#16 } := by decide

/-- Vector J20. -/
theorem test_J20_bvc :
    nextOf (exec (.bvc 0x08#8) { State.reset with pc := 0x0003#16, psr := { State.reset.psr with v := true } }) =
      some { State.reset with pc := 0x0003#16, psr := { State.reset.psr with v := true } } := by decide

/-- Vector J21. -/
theorem test_J21_bvc :
    nextOf (exec (.bvc 0x08#8) { State.reset with pc := 0x0003#16 }) =
      some { State.reset with pc := 0x0008#16 } := by decide

/-- Vector J23. -/
theorem test_J23_halt :
    nextOf (exec (.halt 0x00#8) { State.reset with pc := 0x0003#16 }) =
      some { State.reset with pc := 0x0003#16 } := by decide

/-- Vector J24. -/
theorem test_J24_halt :
    nextOf (exec (.halt 0xAB#8) { State.reset with pc := 0x0003#16 }) =
      some { State.reset with pc := 0x0003#16 } := by decide

/-! ### The cycles, the engine, the host (95_test_vectors.md sections 2.2, 2.6, 2.7) -/

/-- `ADD #$05,A` in slot 0, `HALT` in slot 1. -/
def addFive : State := withSlots [(0x00, 0x0105#16), (0x01, 0xFF00#16)]

/-- `MOVE A,($10)` in slot 0, its pointer Word 0x0100 in slot 0x10. -/
def badPointer : State := { withSlots [(0x00, 0x1910#16), (0x10, 0x0100#16)] with gpa := 0x0007#16 }

/-- `ADD #$05,A` in slot 255, and PC there. -/
def lastSlot : State := { withSlots [(0xFF, 0x0105#16)] with pc := 0x00FF#16 }

/-- PC one past the last slot. -/
def pcBeyond : State := { State.reset with pc := 0x0100#16 }

/-- A cycle in flight. -/
def busyState : State := { State.reset with phase := .executing }

/-- Vector Q2. -/
theorem test_Q2_fetch_wraps :
    fetchCommand { withSlots [(0xFF, 0xFF00#16)] with pc := 0x00FF#16 } =
      ({ withSlots [(0xFF, 0xFF00#16)] with pc := 0x0000#16, mar := 0x00FF#16, mdr := 0xFF00#16, ptr := 255 }, .done) := by
  decide

/-- Vector Q6. -/
theorem test_Q6_decode_error_changes_nothing :
    (decodeCommand { State.reset with ir := 0x1301#16, cur := some 0x13#8 }).1 =
      { State.reset with ir := 0x1301#16, cur := some 0x13#8 } := by
  decide

/-- Vector Q12. -/
theorem test_Q12_execute_of_an_unassigned_opcode :
    executeCommand { State.reset with ir := 0x2E00#16, gpa := 0x0001#16 } =
      ({ State.reset with ir := 0x2E00#16, gpa := 0x0001#16 }, .error (.invalidInstruction 0x2E#8)) := by
  decide

/-- Vector X1. -/
theorem test_X1_execute_error_keeps_fetch_and_decode :
    stepCommand badPointer =
      ({ badPointer with pc := 0x0001#16, mdr := 0x1910#16, ir := 0x1910#16, cur := some 0x19#8 },
        .error (.addressOutOfRange 0x0100)) := by
  decide

/-- Vector X2. -/
theorem test_X2_step_from_reset : faultOf (step State.reset) = some (.invalidInstruction 0x00#8) := by decide

/-- Vector X6; it meets the hypotheses of DivisionByZeroRaises too. -/
theorem test_X6_division_by_zero :
    let s := { State.reset with alu := { x := 0x0005#16, y := 0x0000#16, circuit := .div, z := 0x1111#16 } }
    s.phase = .idle ∧ s.alu.circuit = .div ∧ s.alu.y.toNat = 0 ∧
      hostCall .computeZ s = (s, .error .divisionByZero) := by
  decide

/-- Vector A39. -/
theorem test_A39_div_overflow :
    circuitResult .div 0x8000#16 0xFFFF#16 = some { r := 0x8000#16, c := false, v := true } := by
  decide

/-- Vector A34. -/
theorem test_A34_div_rounds_toward_zero :
    circuitResult .div 0xFFF9#16 0x0002#16 = some { r := 0xFFFD#16, c := false, v := false } := by
  decide

/-- Vector A28. -/
theorem test_A28_mul_carry_without_overflow :
    circuitResult .mul 0xFFFE#16 0x0003#16 = some { r := 0xFFFA#16, c := true, v := false } := by
  decide

/-- Vector I4, the load. -/
theorem test_I4_load :
    load { org := 0x000A#16, words := [0xFF00#16] } State.reset =
      ({ withSlots [(0x0A, 0xFF00#16)] with pc := 0x000A#16 }, .done) := by
  decide

/-- Vector I5. -/
theorem test_I5_load_does_not_wrap :
    load { org := 0x00FF#16, words := [0x1301#16, 0xFF00#16] } State.reset =
      (withSlots [(0xFF, 0x1301#16)], .error (.addressOutOfRange 256)) := by
  decide

/-- Worked example S10. -/
theorem test_S10_hex : toHexString 0x000A#16 = ['0', '0', '0', 'A'] := by decide

theorem test_hex_refuses_five_digits : (fromHexString ['0', '0', '0', '0', 'A']).toOption = none := by decide
theorem test_hex_refuses_a_letter : (fromHexString ['0', '0', '0', 'G']).toOption = none := by decide

/-- `step` runs the placed Word as the first instruction after reset. -/
theorem test_placed_word_runs_first : (nextOf (step (State.reset.withFetchWord 16 0x1301))).map State.gpa = some 0x0001#16 := by
  decide

/-- The placed Word runs even where PC names no slot and a cycle is in flight (log 8). -/
theorem test_placed_word_runs_anywhere :
    (nextOf (step ({ busyState with pc := 0x1234#16 }.withFetchWord 16 0x1301))).map State.gpa = some 0x0001#16 := by
  decide

/-! ### Witnesses: each obligation's hypotheses are met -/

theorem witness_EncodeOfDecodeIsTheWord : decode 0x05AB#16 = .ok (.addBA 0xAB#8) := by decide

theorem witness_UnassignedOpcodes :
    State.reset.phase = .idle ∧ Unassigned (opcodeOf State.reset.mdr) ∧ Unassigned 0x25#8 ∧ Unassigned 0xFE#8 ∧
      ¬ Unassigned 0x01#8 ∧ ¬ Unassigned 0x24#8 ∧ ¬ Unassigned 0xFF#8 := by
  unfold Unassigned
  decide

theorem witness_StepRuns_next :
    addFive.phase = .idle ∧ PcAt addFive 0 ∧ decode (Memory.read addFive.mem 0) = .ok (.addImmA 0x05#8) ∧
      (nextOf (exec (.addImmA 0x05#8) (fetchedAndDecoded .executing 0 addFive))).isSome = true := by
  unfold PcAt
  decide

theorem witness_StepRuns_fault :
    badPointer.phase = .idle ∧ PcAt badPointer 0 ∧ decode (Memory.read badPointer.mem 0) = .ok (.moveAToInd 0x10#8) ∧
      faultOf (exec (.moveAToInd 0x10#8) (fetchedAndDecoded .executing 0 badPointer)) =
        some (.addressOutOfRange 0x0100) := by
  unfold PcAt
  decide

theorem witness_Fetch_at_the_last_slot : lastSlot.phase = .idle ∧ PcAt lastSlot 255 := by
  unfold PcAt
  decide

theorem witness_Fetch_beyond :
    pcBeyond.phase = .idle ∧ 256 ≤ pcBeyond.pc.toNat ∧ ¬ 256 ≤ lastSlot.pc.toNat ∧ lastSlot.pc.toNat < 256 := by
  decide

theorem witness_Decode_boundaries :
    let at1 := { State.reset with mdr := 0x0100#16 }
    let at36 := { State.reset with mdr := 0x24FF#16 }
    let at255 := { State.reset with mdr := 0xFF37#16 }
    (1 ≤ (opcodeOf at1.mdr).toNat ∧ (opcodeOf at1.mdr).toNat ≤ 36 ∧ (decodeCommand at1).2 = .done) ∧
      (1 ≤ (opcodeOf at36.mdr).toNat ∧ (opcodeOf at36.mdr).toNat ≤ 36 ∧ (decodeCommand at36).2 = .done) ∧
      ((opcodeOf at255.mdr).toNat = 255 ∧ (decodeCommand at255).2 = .done) ∧
      ¬ ((1 ≤ (opcodeOf State.reset.mdr).toNat ∧ (opcodeOf State.reset.mdr).toNat ≤ 36) ∨
        (opcodeOf State.reset.mdr).toNat = 255) := by
  decide

theorem witness_DecodeErrorKeepsFetchAndOldIr :
    State.reset.phase = .idle ∧ PcAt State.reset 0 ∧ Unassigned (opcodeOf (Memory.read State.reset.mem 0)) := by
  unfold PcAt Unassigned
  decide

theorem witness_ExecuteDispatchesOnIr :
    let good := { State.reset with ir := 0x0105#16 }
    let bad := { badPointer with ir := 0x1910#16 }
    (decode good.ir = .ok (.addImmA 0x05#8) ∧
        (nextOf (exec (.addImmA 0x05#8) { good with phase := .executing })).isSome = true) ∧
      (decode bad.ir = .ok (.moveAToInd 0x10#8) ∧
        faultOf (exec (.moveAToInd 0x10#8) { bad with phase := .executing }) = some (.addressOutOfRange 0x0100)) ∧
      Unassigned (opcodeOf State.reset.ir) := by
  unfold Unassigned
  decide

theorem witness_BusyRejectsEveryCommand : busyState.phase ≠ .idle := by decide

/-- Each of the three cycles can be the one that raises; and a host call other than `step` can raise. -/
theorem witness_AnErrorUndoesItsCycleAlone :
    (stepCommand pcBeyond).2 = .error (.addressOutOfRange 0x0100) ∧
      (stepCommand State.reset).2 = .error (.invalidInstruction 0x00#8) ∧
      (stepCommand badPointer).2 = .error (.addressOutOfRange 0x0100) ∧
      hostCall (.setPointer 256) State.reset = (State.reset, .error (.addressOutOfRange 256)) := by
  decide

theorem witness_NoInstructionReachesMulOrDiv :
    State.reset.phase = .idle ∧ (nextOf (exec (.subBA 0x00#8) State.reset)).map (fun t => t.alu.circuit) = some .sub := by
  decide

/-- A run can end in each of its ways. -/
theorem witness_Run_ends :
    addFive.phase = .idle ∧ (runCommand [false, false] addFive).2 = .halted ∧
      (runCommand [false, true] addFive).2 = .cancelled ∧ (runCommand [false] addFive).2 = .running ∧
      (runCommand [false] State.reset).2 = .error (.invalidInstruction 0x00#8) := by
  decide

theorem witness_RunHalts :
    let s := withSlots [(0x00, 0xFF00#16)]
    s.phase = .idle ∧ PcAt s 0 ∧ opcodeOf (Memory.read s.mem 0) = 0xFF#8 := by
  unfold PcAt
  decide

theorem witness_HaltMovesNoData :
    let s := withSlots [(0x00, 0xFFAB#16)]
    (s.phase = .idle ∧ (fetchDecode s).2 = .done ∧ opcodeOf (fetchDecode s).1.ir = 0xFF#8) ∧
      { s with ir := 0xFFAB#16 }.ir = wordOf 0xFF#8 0xAB#8 := by
  decide

theorem witness_AddOverflow_opposite_signs : ¬ (0 ≤ (0x7FFF#16 : Word).toInt ↔ 0 ≤ (0x8000#16 : Word).toInt) := by decide

theorem witness_Reset : State.reset.phase = .idle ∧ busyState.phase ≠ .idle := by decide

theorem witness_ComputeZ :
    circuitResult .add 0x7FFF#16 0x0001#16 = some { r := 0x8000#16, c := false, v := true } ∧
      circuitResult .div 0x0005#16 0x0000#16 = none := by
  decide

/-- Both signs of the quotient, and the one overflow. -/
theorem witness_DivCircuit :
    (0xFFFF#16 : Word).toNat ≠ 0 ∧
      (0 ≤ (0x8000#16 : Word).toInt ↔ 0 ≤ (0xFFFF#16 : Word).toInt) ∧
      ¬ (0 ≤ (0x0007#16 : Word).toInt ↔ 0 ≤ (0xFFFE#16 : Word).toInt) := by
  decide

/-- Each clause about the compared registers is met, at the ends of the signed and unsigned ranges. -/
theorem witness_CompareThenBranch :
    (0x0000#16 : Word).toNat < (0xFFFF#16 : Word).toNat ∧ (0x8000#16 : Word) ≠ 0x7FFF#16 ∧
      (0x7FFF#16 - 0xFFFF#16 : Word).msb = true ∧
      DoesNotFit ((0x8000#16 : Word).toInt - (0x0001#16 : Word).toInt) ∧
      ¬ DoesNotFit ((0xFFFF#16 : Word).toInt - (0x7FFF#16 : Word).toInt) := by
  unfold DoesNotFit
  decide

/-- A canonical memory whose pointer Words are the last slot and the first address beyond it. -/
theorem witness_stores :
    let m : Memory := [(0x30, 0x00FF#16), (0x31, 0x0100#16)]
    Memory.wf m = true ∧ (Memory.read m 0x30).toNat = (255 : SlotIndex).val ∧ 256 ≤ (Memory.read m 0x31).toNat ∧
      { withSlots m with ir := 0x1931#16 }.ir = wordOf 0x19#8 0x31#8 := by
  decide

theorem witness_JumpsWriteTheTargetIntoPc :
    let s := withSlots [(0x40, 0x0100#16)]
    s.phase = .idle ∧ 256 ≤ (Memory.read s.mem (0x40#8 : Byte).toNat).toNat := by
  decide

/-- Instructions inside and outside each group of the frame, completing. -/
theorem witness_frames :
    (¬ WritesGpa (.moveAToDir 0x20#8) ∧ ¬ WritesGpb (.moveAToDir 0x20#8) ∧ ¬ UsesAlu (.moveAToDir 0x20#8) ∧
        ¬ MayWritePc (.moveAToDir 0x20#8) ∧ (nextOf (exec (.moveAToDir 0x20#8) addFive)).isSome = true) ∧
      (¬ UsesMemory (.addBA 0x00#8) ∧ UsesAlu (.addBA 0x00#8) ∧ (nextOf (exec (.addBA 0x00#8) addFive)).isSome = true) := by
  unfold WritesGpa WritesGpb UsesAlu MayWritePc UsesMemory
  decide

theorem witness_memory_frame :
    Memory.wf addFive.mem = true ∧ storeOf (.addBA 0x00#8) addFive = none ∧
      storeOf (.moveAToDir 0xFF#8) addFive = some (255, 0x0000#16) ∧
      (nextOf (exec (.moveAToDir 0xFF#8) addFive)).isSome = true := by
  decide

theorem witness_flags : Flag.carry ≠ Flag.zero ∧ State.reset.psr.get .carry = false ∧ State.reset.phase = .idle := by decide

/-- Two states that differ in every hidden field, stepping and faulting. -/
theorem witness_HiddenState :
    let hide := fun s : State =>
      { s with mar := 0x1111#16, mdr := 0x2222#16, ir := 0x3333#16, ptr := 7, cur := some 0x13#8,
               alu := { x := 0x4444#16, y := 0x5555#16, circuit := .div, z := 0x6666#16 } }
    addFive.SameVisible (hide addFive) ∧ (nextOf (step addFive)).isSome = true ∧
      State.reset.SameVisible (hide State.reset) ∧ (faultOf (step State.reset)).isSome = true := by
  decide

theorem witness_invariant : addFive.Inv ∧ (nextOf (step addFive)).isSome = true := by decide

/-- PC at the last slot: it falls through to slot 0; and a jump to the last slot. -/
theorem witness_pc_range :
    (lastSlot.pc.toNat < 256 ∧ (nextOf (step lastSlot)).map State.pc = some 0x0000#16 ∧
        (nextOf (step lastSlot)).map (fun t => decide (opcodeOf t.ir = 0x1C#8)) = some false) ∧
      (nextOf (step (withSlots [(0x00, 0x1BFF#16)]))).map State.pc = some 0x00FF#16 := by
  decide

theorem witness_ABadPc : State.reset.phase = .idle ∧ 256 ≤ (0x0100#16 : Word).toNat := by decide

theorem witness_StoresAreSeen :
    let throughPointer := { withSlots [(0x30, 0x00FF#16)] with pc := 0x00FF#16 }
    (Memory.wf lastSlot.mem = true ∧ lastSlot.phase = .idle ∧ lastSlot.pc = (0xFF#8 : Byte).setWidth 16) ∧
      (Memory.wf throughPointer.mem = true ∧ throughPointer.phase = .idle ∧
        throughPointer.pc = Memory.read throughPointer.mem (0x30#8 : Byte).toNat ∧ throughPointer.pc.toNat < 256) := by
  decide

theorem witness_pcIncrement : (0x00FF#16 : Word).toNat < 256 ∧ pcIncrement 0x00FF#16 = 0x0000#16 := by decide

theorem witness_registers : State.reset.phase = .idle ∧ Reg.pc ≠ Reg.mar := by decide

/-- Host addresses and pointers at both sides of the bound. -/
theorem witness_host_memory :
    addFive.phase = .idle ∧ Memory.wf addFive.mem = true ∧ 255 < 256 ∧ (255 : SlotIndex).val = 255 ∧
      pcBeyond.pc.toNat = 256 ∧ { State.reset with mar := 0x00FF#16 }.mar.toNat = (255 : SlotIndex).val ∧
      256 ≤ { State.reset with mar := 0x0100#16 }.mar.toNat := by
  decide

/-- A program that just fits, and one that is a Word too long. -/
theorem witness_load :
    let fits : Program := { org := 0x00FF#16, words := [0xFF00#16] }
    let tooLong : Program := { org := 0x00FF#16, words := [0x1301#16, 0xFF00#16] }
    Memory.wf State.reset.mem = true ∧ State.reset.phase = .idle ∧ Memory.wf busyState.mem = true ∧
      busyState.phase ≠ .idle ∧ (operandOf fits.org).toNat + fits.words.length = 256 ∧
      (operandOf tooLong.org).toNat + tooLong.words.length = 257 := by
  decide

end Sys2Proof.Tests
end

section
/-! The state's rules of 10_state.md: the flags (R31), PC.increment (R24) and the registers' operations (R29). The
lemmas first: the flags and the registers as records, what a cycle keeps, what an instruction keeps. -/

namespace Sys2Proof.Machine

open Sys2Proof.Spec

variable {s t : State}

/-! ### The flags and the registers -/

/-- While the phase is Idle a host call is answered at once. -/
theorem hostCall_idle (c : HostCall) (hs : s.phase = .idle) : hostCall c s = idleCall c s := if_pos hs

@[simp] theorem Psr.get_set_same (p : Psr) (f : Flag) (b : Bool) : (p.set f b).get f = b := by cases f <;> rfl

theorem Psr.get_set_other (p : Psr) {f g : Flag} (h : g ≠ f) (b : Bool) : (p.set f b).get g = p.get g := by
  cases f <;> cases g <;> simp [Psr.get, Psr.set] at h ⊢

@[simp] theorem Psr.set_get (p : Psr) (f : Flag) : p.set f (p.get f) = p := by cases f <;> rfl

@[simp] theorem State.withPsr_psr_self (s : State) : s.withPsr s.psr = s := rfl

section
variable (s : State) (r : Reg) (w : Word)
@[simp] theorem State.readReg_writeReg_same : (s.writeReg r w).readReg r = w := by cases r <;> rfl
@[simp] theorem State.writeReg_alu : (s.writeReg r w).alu = s.alu := by cases r <;> rfl
@[simp] theorem State.writeReg_psr : (s.writeReg r w).psr = s.psr := by cases r <;> rfl
@[simp] theorem State.writeReg_mem : (s.writeReg r w).mem = s.mem := by cases r <;> rfl
@[simp] theorem State.writeReg_ptr : (s.writeReg r w).ptr = s.ptr := by cases r <;> rfl
@[simp] theorem State.writeReg_phase : (s.writeReg r w).phase = s.phase := by cases r <;> rfl
@[simp] theorem State.writeReg_cur : (s.writeReg r w).cur = s.cur := by cases r <;> rfl
end

/-- No register aliases another. -/
theorem State.readReg_writeReg_other (s : State) {r q : Reg} (h : q ≠ r) (w : Word) :
    (s.writeReg r w).readReg q = s.readReg q := by
  cases r <;> cases q <;> simp [State.readReg, State.writeReg] at h ⊢

/-! ### What a cycle keeps -/

/-- What a cycle's body keeps, the cycle keeps, whether it completes, raises or is refused as Busy. -/
theorem atomicCycle_keeps {α : Type} {p : Phase} {body : State → Result} (f : State → α)
    (hphase : ∀ u q, f (State.withPhase u q) = f u) (hbody : ∀ u t, body u = .next t → f t = f u) (s : State) :
    f (atomicCycle p body s).1 = f s := by
  unfold atomicCycle
  split
  · split
    next t h =>
      calc f (t.withPhase .idle)
        _ = f t := hphase t .idle
        _ = f (s.withPhase p) := hbody _ t h
        _ = f s := hphase s p
    · rfl
    · rfl
  · rfl

/-- Fetch's micro-sequence completes only where PC names a slot. -/
theorem fetchBody_next (h : fetchBody s = .next t) :
    ∃ p : SlotIndex, s.pc.toNat = p.val ∧
      t = (((s.withMar s.pc).withPc (BitVec.ofNat 16 ((s.pc.toNat + 1) % 256))).withPtr p).withMdr
        (Memory.read s.mem p) := by
  rcases slot_or_beyond s.pc with ⟨p, hp⟩ | hp
  · rw [fetchBody_slot hp] at h
    cases h
    exact ⟨p, hp, rfl⟩
  · rw [fetchBody_beyond hp] at h
    cases h

/-- Decode's micro-sequence, where it completes, writes IR and ENG.cur. -/
theorem decodeBody_next (h : decodeBody s = .next t) : t = (s.withIr s.mdr).withCur (some (opcodeOf s.mdr)) := by
  cases hc : Config.instrTable.contains (opcodeOf s.mdr) with
  | true =>
    rw [decodeBody_entry hc] at h
    cases h
    rfl
  | false =>
    rw [decodeBody_noEntry hc] at h
    cases h

theorem fetchCommand_psr (s : State) : (fetchCommand s).1.psr = s.psr :=
  atomicCycle_keeps State.psr (fun _ _ => rfl)
    (fun _ _ h => by obtain ⟨_, -, rfl⟩ := fetchBody_next h; rfl) s

theorem decodeCommand_psr (s : State) : (decodeCommand s).1.psr = s.psr :=
  atomicCycle_keeps State.psr (fun _ _ => rfl) (fun _ _ h => by rw [decodeBody_next h]; rfl) s

theorem decodeCommand_pc (s : State) : (decodeCommand s).1.pc = s.pc :=
  atomicCycle_keeps State.pc (fun _ _ => rfl) (fun _ _ h => by rw [decodeBody_next h]; rfl) s

/-- Fetch commits the incremented PC where PC names a slot. -/
theorem fetchCommand_pc_slot (hs : s.phase = .idle) (h : s.pc.toNat < 256) :
    (fetchCommand s).1.pc = pcIncrement s.pc := by
  have hbody := fetchBody_slot (s := s.withPhase .fetching) (p := ⟨s.pc.toNat, h⟩) rfl
  rw [fetchCommand, atomicCycle_next hs hbody, pcIncrement_slot h]
  rfl

/-- A Fetch that raises commits no PC. -/
theorem fetchCommand_pc_beyond (hs : s.phase = .idle) (h : 256 ≤ s.pc.toNat) : (fetchCommand s).1.pc = s.pc := by
  rw [fetchCommand, atomicCycle_fault hs (fetchBody_beyond (s := s.withPhase .fetching) h)]

/-! ### compute_z is what ADD, SUB and COMPARE end with -/

/-- Z and all four flags are those compute_z gives for the circuit and the operands latched (40_alu.md R131). -/
def AluComputed (t : State) : Prop :=
  ∃ a, circuitResult t.alu.circuit t.alu.x t.alu.y = some a ∧ t.alu.z = a.r ∧ t.psr = flagsOf a

/-- An instruction that uses the ALU leaves the flags and Z of the latches it has loaded. -/
theorem exec_aluComputed {i : Instr} (hi : UsesAlu i) (h : exec i s = .next t) : AluComputed t := by
  cases i
  case addImmA | addImmB | addDirA | addDirB | addBA | addAB | subImmA | subImmB | subDirA | subDirB | subBA | subAB
      | compareImmA | compareImmB | compareDirA | compareDirB | compareBA | compareAB =>
    simp [compareWith_eq] at h
    subst h
    exact ⟨_, rfl, rfl, rfl⟩
  all_goals exact absurd hi (by simp [UsesAlu, Instr.opcode])

/-- Z and N of the flags compute_z writes, in the words of 40_alu.md R131. -/
theorem zeroAndNegative_of_flagsOf {a : AluResult} (hz : t.alu.z = a.r) (hp : t.psr = flagsOf a) :
    ZeroAndNegative t := by
  constructor
  · rw [hp, hz]
    simp [flagsOf, isZero, ← BitVec.toNat_inj]
  · rw [hp, hz]
    simp [flagsOf, isNegative, BitVec.msb_eq_getLsbD_last]

/-! ### What an instruction keeps -/

/-- A branch writes PC or nothing. -/
theorem branchIf_next {g : Bool} {b : Byte} (h : branchIf g b s = .next t) :
    t = s.withPc (b.setWidth 16) ∨ t = s := by
  cases g <;> cases h <;> simp

/-- An indirect store completes only through a pointer Word that is a slot index. -/
theorem storeIndirect_next {b : Byte} {r : Gpr} (h : storeIndirect b r s = .next t) :
    ∃ p : SlotIndex, (Memory.read s.mem b.toNat).toNat = p.val ∧
      t = (((s.withMar (Memory.read s.mem b.toNat)).withPtr p).withMdr (s.gpr r)).withMem
        (Memory.write s.mem p (s.gpr r)) := by
  rcases storeIndirect_cases b s r with ⟨p, hp, h'⟩ | ⟨-, h'⟩ <;> rw [h'] at h <;> cases h
  exact ⟨p, hp, rfl⟩

/-- The flags and the ALU are written by ADD, SUB and COMPARE alone. -/
theorem exec_keeps_alu {i : Instr} (hi : ¬ UsesAlu i) (h : exec i s = .next t) : t.alu = s.alu ∧ t.psr = s.psr := by
  cases i
  case moveAToInd | moveBToInd =>
    obtain ⟨p, -, rfl⟩ := storeIndirect_next h
    exact ⟨rfl, rfl⟩
  case bcs | bcc | bns | bnc | bzs | bzc | bvs | bvc =>
    obtain rfl | rfl := branchIf_next h <;> exact ⟨rfl, rfl⟩
  case moveImmA | moveImmB | moveDirToA | moveDirToB | moveAToDir | moveBToDir | jmpImm | jmpDir | halt =>
    simp at h
    subst h
    exact ⟨rfl, rfl⟩
  all_goals exact absurd (by simp [UsesAlu, Instr.opcode]) hi

/-- PC is written by JMP and the branches alone. -/
theorem exec_keeps_pc {i : Instr} (hi : ¬ MayWritePc i) (h : exec i s = .next t) : t.pc = s.pc := by
  cases i
  case moveAToInd | moveBToInd =>
    obtain ⟨p, -, rfl⟩ := storeIndirect_next h
    rfl
  case jmpImm | jmpDir | bcs | bcc | bns | bnc | bzs | bzc | bvs | bvc =>
    exact absurd (by simp [MayWritePc, Instr.opcode]) hi
  all_goals
    simp [compareWith_eq] at h
    simp [← h]

/-! ### The obligations -/

/-- Settles O44: set_flag and get_flag by the laws of the Psr record, Fetch and Decode by what their bodies write, the
instructions by `exec_keeps_alu` and `exec_aluComputed`. -/
theorem flagsPersistUntilComputeZ : Obligations.FlagsPersistUntilComputeZ := by
  refine ⟨fun s f b hs => ⟨s.withPsr (s.psr.set f b), ?_, ?_, ?_, ?_, rfl⟩,
    fun s => ⟨fetchCommand_psr s, decodeCommand_psr s⟩, fun i s t hi h => (exec_keeps_alu hi h).2,
    fun i s t hi h => ?_⟩
  · exact hostCall_idle _ hs
  · have ht : (s.withPsr (s.psr.set f b)).phase = .idle := hs
    simp [hostCall_idle _ ht, idleCall]
  · exact fun g hg => s.psr.get_set_other hg b
  · rintro rfl
    simp
  · obtain ⟨a, ha, hz, hp⟩ := exec_aluComputed hi h
    exact ⟨a, ha, hz, congrArg Psr.c hp, congrArg Psr.v hp, zeroAndNegative_of_flagsOf hz hp⟩

/-- Settles O51: the increment itself by arithmetic, Fetch by whether PC names a slot, the rest by what they keep. -/
theorem pcIncrementWrapsAt256 : Obligations.PcIncrementWrapsAt256 := by
  refine ⟨fun w hw => ⟨pcIncrement_slot hw, ?_⟩, fun s hs => ?_, decodeCommand_pc, fun i s t h hi => exec_keeps_pc hi h⟩
  · rw [pcIncrement_slot hw, BitVec.toNat_ofNat]
    omega
  · split
    next h => exact fetchCommand_pc_slot hs h
    next h => exact fetchCommand_pc_beyond hs (Nat.le_of_not_lt h)

/-- Settles O52: read, write and reset are the register laws seen through the host's call; reset is a write. -/
theorem registersReadWriteReset : Obligations.RegistersReadWriteReset := by
  intro s r w hs
  refine ⟨hostCall_idle _ hs, ⟨s.writeReg r w, hostCall_idle _ hs, ?_⟩, s.resetReg r, hostCall_idle _ hs, ?_⟩
  · exact ⟨by simp, fun q hq => s.readReg_writeReg_other hq w, by simp⟩
  · exact ⟨s.readReg_writeReg_same r _, fun q hq => s.readReg_writeReg_other hq _, s.writeReg_mem r _⟩

end Sys2Proof.Machine
end

section
/-! Memory as the host sees it (20_memory.md): the access through the pointer (R64, R65) and reset (R78). -/

namespace Sys2Proof.Machine

/-- What write_at_pointer leaves in each slot (20_memory.md R65). -/
theorem read_writePtr {s : State} (hm : Memory.wf s.mem = true) (w : Word) (a : Nat) :
    Memory.read (writePtr w s).mem a = if a = s.ptr.val then w else Memory.read s.mem a :=
  Memory.read_write hm s.ptr w a

/-- Every slot reads as 0x0000 after simulator reset, whatever it held (20_memory.md R78). -/
@[simp] theorem read_resetAll (s : State) (a : Nat) : Memory.read (resetAll s).mem a = 0x0000#16 :=
  Memory.read_nil a

/-- Settles O55: neither call has a branch that fails, and a write through the pointer is a write to memory. -/
theorem readAndWriteAtPointer : Obligations.ReadAndWriteAtPointer := by
  intro s w hs hm
  exact ⟨hostCall_idle _ hs, writePtr w s, hostCall_idle _ hs, rfl, read_writePtr hm w⟩

/-- Settles O56: reset answers the state with nothing listed in memory. -/
theorem resetZeroesMemory : Obligations.ResetZeroesMemory := by
  intro s hs
  exact ⟨resetAll s, hostCall_idle _ hs, fun h => read_resetAll s h⟩

end Sys2Proof.Machine
end

section
/-! Encoding (30_encoding.md): the round trip of an instruction through its Word (R102) and the illegal opcode bytes
(R100). -/

namespace Sys2Proof.Machine

open Sys2Proof.Spec

/-! ### The round trip -/

@[simp] theorem opcodeOf_encode (i : Instr) : opcodeOf (encode i) = i.opcode := opcodeOf_wordOf _ _

@[simp] theorem operandOf_encode (i : Instr) : operandOf (encode i) = i.operand := operandOf_wordOf _ _

/-- The Word's two bytes are the instruction's own, and those dispatch to it. -/
theorem decode_encode (i : Instr) : decode (encode i) = .ok i := by
  rw [decode_ok_iff, opcodeOf_encode, operandOf_encode, opmap_opcode]

/-! ### The illegal opcode bytes -/

/-- The decoder refuses a Word exactly where the dispatch table has no instruction. -/
theorem decode_error_iff (w : Word) :
    decode w = .error (.invalidInstruction (opcodeOf w)) ↔ Config.opmap (opcodeOf w) (operandOf w) = none := by
  rw [decode_eq]
  cases Config.opmap (opcodeOf w) (operandOf w) <;> simp

/-- The instruction-set table has no entry for an illegal opcode byte, as OPMAP has none. -/
theorem instrTable_unassigned {op : Byte} (h : Unassigned op) : Config.instrTable.contains op = false := by
  rw [instrTable_eq_opmap op 0#8, (opmap_none_iff op 0#8).mpr h, Option.isSome_none]

/-- A Decode of an illegal opcode byte raises InvalidInstruction and leaves the state as it was (41_sequencer.md R165). -/
theorem decodeCommand_unassigned {s : State} (hs : s.phase = .idle) (h : Unassigned (opcodeOf s.mdr)) :
    decodeCommand s = (s, .error (.invalidInstruction (opcodeOf s.mdr))) :=
  atomicCycle_fault hs (decodeBody_noEntry (s := s.withPhase .decoding) (instrTable_unassigned h))

/-! ### The obligations -/

/-- Settles O1: the two bytes of an encoded instruction are read back as they were put in, and OPMAP answers them with
the instruction they came from. -/
theorem decodeOfEncodeIsTheInstruction : Obligations.DecodeOfEncodeIsTheInstruction :=
  fun i => ⟨decode_encode i, opcodeOf_encode i, operandOf_encode i⟩

/-- Settles O3: OPMAP's gaps are R100's ranges, and the instruction-set table that Decode looks in has the same gaps. -/
theorem unassignedOpcodesRaiseInvalidInstruction : Obligations.UnassignedOpcodesRaiseInvalidInstruction :=
  ⟨fun w => (decode_error_iff w).trans (opmap_none_iff _ _), fun _ hs h => decodeCommand_unassigned hs h⟩

end Sys2Proof.Machine
end

section
/-! The ALU interface and its circuits (40_alu.md): the loads (R130), compute_z (R131), Add and Sub (R133 to R136) and
division by zero (R141). -/

namespace Sys2Proof.Machine

open Sys2Proof.Spec

/-! ### compute_z as the host sees it -/

/-- A circuit that gives a result: the host is answered that result, and Z and the four flags are written. -/
theorem hostCall_computeZ_some {s : State} {a : AluResult} (hs : s.phase = .idle)
    (h : circuitResult s.alu.circuit s.alu.x s.alu.y = some a) :
    hostCall .computeZ s = ((s.withAlu { s.alu with z := a.r }).withPsr (flagsOf a), .word a.r) := by
  simp [hostCall_idle _ hs, idleCall, computeZ_some h, attempt]

/-- A circuit that gives no result: the host is answered DivisionByZero, in the state as it was. -/
theorem hostCall_computeZ_none {s : State} (hs : s.phase = .idle)
    (h : circuitResult s.alu.circuit s.alu.x s.alu.y = none) :
    hostCall .computeZ s = (s, .error .divisionByZero) := by
  simp [hostCall_idle _ hs, idleCall, computeZ_none h, attempt]

/-! ### The circuits' markers, in the words of the spec -/

/-- The one circuit without a result is Div, and only on a divisor of 0. -/
theorem circuitResult_eq_none_iff (k : Circuit) (x y : Word) :
    circuitResult k x y = none ↔ k = .div ∧ y = 0x0000#16 := by
  cases k <;> simp [circuitResult]

@[simp] theorem addCarry_iff (x y : Word) : addCarry x y = true ↔ 65535 < x.toNat + y.toNat := by simp [addCarry]

@[simp] theorem addOverflow_iff (x y : Word) : addOverflow x y = true ↔ AddOverflows x y := by
  simp [addOverflow, AddOverflows, and_assoc]

@[simp] theorem outsideI16_iff (n : Int) : outsideI16 n = true ↔ DoesNotFit n := by
  simp [outsideI16, DoesNotFit, or_comm]

/-! ### Add's result, read unsigned and signed -/

/-- The two views of a Word differ by a multiple of 65536 (00_scope.md R6). -/
theorem toInt_emod (w : Word) : w.toInt % 65536 = (w.toNat : Int) % 65536 := by
  rw [BitVec.toInt_eq_toNat_bmod]
  exact Int.bmod_emod

theorem addCircuit_r_toNat (x y : Word) : (addCircuit x y).r.toNat = (x.toNat + y.toNat) % 65536 := by
  have h : ((addCircuit x y).r.toNat : Int) = (x.toNat + y.toNat : Int) % 65536 := trunc16_toNat _
  omega

/-- Adding the signed views gives the same Word as adding the unsigned ones. -/
theorem addCircuit_r_toInt (x y : Word) : ((addCircuit x y).r.toNat : Int) = (x.toInt + y.toInt) % 65536 := by
  have hx := toInt_emod x
  have hy := toInt_emod y
  have h := addCircuit_r_toNat x y
  omega

/-! ### The obligations -/

/-- Settles O24: the result by its two readings, carry and overflow by what the markers say. -/
theorem addCircuitResultCarryOverflow : Obligations.AddCircuitResultCarryOverflow := fun x y =>
  ⟨addCircuit x y, rfl, addCircuit_r_toNat x y, addCircuit_r_toInt x y, addCarry_iff x y, addOverflow_iff x y⟩

/-- Settles O26: the circuit truncates the exact signed difference, and its overflow is that difference outside i16. -/
theorem subCircuitResultOverflow : Obligations.SubCircuitResultOverflow := fun x y =>
  ⟨subCircuit x y, rfl, trunc16_toNat _, outsideI16_iff _⟩

/-- Settles O22: an Idle host call is answered at once, and each load is the update of its one latch. -/
theorem aluLoadsChangeOneLatch : Obligations.AluLoadsChangeOneLatch := fun _ _ _ hs =>
  ⟨hostCall_idle _ hs, hostCall_idle _ hs, hostCall_idle _ hs⟩

/-- Settles O23: the two cases of compute_z, its Z and N flags by `zeroAndNegative_of_flagsOf`. -/
theorem computeZWritesResultAndAllFlags : Obligations.ComputeZWritesResultAndAllFlags := by
  refine fun s hs => ⟨fun a ha => ⟨_, hostCall_computeZ_some hs ha, rfl, rfl, rfl, ?_, rfl⟩, hostCall_computeZ_none hs⟩
  exact zeroAndNegative_of_flagsOf (a := a) rfl rfl

/-- Settles O29: Div on a divisor of 0 is the circuit without a result. -/
theorem divisionByZeroRaises : Obligations.DivisionByZeroRaises := by
  intro s hs hk hy
  have hy : s.alu.y = 0x0000#16 := BitVec.eq_of_toNat_eq hy
  exact hostCall_computeZ_none hs ((circuitResult_eq_none_iff _ _ _).mpr ⟨hk, hy⟩)

end Sys2Proof.Machine
end

section
/-! The sequencer (41_sequencer.md): the Fetch and Decode cycles (R161 to R165), HALT and the run loop's ends (R170,
R172). The lemmas first: each command as an equation on the whole state, then how the loop reads its samples. -/

namespace Sys2Proof.Machine

open Sys2Proof.Spec

variable {s t : State}

/-! ### Fetch -/

/-- The state a successful Fetch leaves: MAR, PC, MEM.ptr and MDR written (41_sequencer.md R162). -/
def afterFetch (h : SlotIndex) (s : State) : State :=
  { s with
    mar := s.pc
    pc := BitVec.ofNat 16 ((s.pc.toNat + 1) % 256)
    ptr := h
    mdr := Memory.read s.mem h }

/-- A Fetch at a slot completes, and the phase it ran in is Idle again. -/
theorem fetchCommand_slot {h : SlotIndex} (hs : s.phase = .idle) (hpc : PcAt s h) :
    fetchCommand s = (afterFetch h s, .done) := by
  rw [fetchCommand, atomicCycle_next hs (fetchBody_slot (s := s.withPhase .fetching) hpc), ← hs]
  rfl

/-- A Fetch at an address that is no slot raises, in the state as it was. -/
theorem fetchCommand_beyond (hs : s.phase = .idle) (hpc : 256 ≤ s.pc.toNat) :
    fetchCommand s = (s, .error (.addressOutOfRange s.pc.toNat)) :=
  atomicCycle_fault hs (fetchBody_beyond (s := s.withPhase .fetching) hpc)

/-! ### Decode -/

/-- The opcode bytes with a row in the table of R96, by their ranges. -/
theorem not_unassigned_iff (op : Byte) :
    ¬ Unassigned op ↔ (1 ≤ op.toNat ∧ op.toNat ≤ 36) ∨ op.toNat = 255 := by
  have := op.isLt
  unfold Unassigned
  omega

/-- The instruction-set table has an entry for every other opcode byte. -/
theorem instrTable_assigned {op : Byte} (h : ¬ Unassigned op) : Config.instrTable.contains op = true := by
  rw [instrTable_eq_opmap op 0#8, Option.isSome_iff_ne_none]
  exact fun hnone => h ((opmap_none_iff op 0#8).mp hnone)

/-- A Decode of an opcode byte with an entry writes IR and ENG.cur, and the phase it ran in is Idle again. -/
theorem decodeCommand_assigned (hs : s.phase = .idle) (h : ¬ Unassigned (opcodeOf s.mdr)) :
    decodeCommand s = ({ s with ir := s.mdr, cur := some (opcodeOf s.mdr) }, .done) := by
  rw [decodeCommand,
    atomicCycle_next hs (decodeBody_entry (s := s.withPhase .decoding) (instrTable_assigned h)), ← hs]
  rfl

/-! ### Fetch and Decode within a logical instruction -/

/-- At a slot, Decode goes on from what Fetch left. -/
theorem fetchDecode_slot {h : SlotIndex} (hs : s.phase = .idle) (hpc : PcAt s h) :
    fetchDecode s = decodeCommand (afterFetch h s) := by
  rw [fetchDecode, fetchCommand_slot hs hpc, ifDone_done]

/-- Fetch and Decode of an opcode byte with an entry both complete. -/
theorem fetchDecode_assigned {h : SlotIndex} (hs : s.phase = .idle) (hpc : PcAt s h)
    (hop : ¬ Unassigned (opcodeOf (Memory.read s.mem h))) :
    fetchDecode s = (fetchedAndDecoded .idle h s, .done) := by
  rw [fetchDecode_slot hs hpc, decodeCommand_assigned (s := afterFetch h s) hs hop, fetchedAndDecoded, ← hs]
  rfl

/-! ### HALT -/

theorem halt_assigned : ¬ Unassigned 0xFF#8 := (not_unassigned_iff _).mpr (.inr rfl)

/-- Execute of a HALT is a no-op (41_sequencer.md R172). -/
theorem executeCommand_halt (hs : s.phase = .idle) (h : opcodeOf s.ir = 0xFF#8) :
    executeCommand s = (s, .done) := by
  have hdecode : decode s.ir = .ok (.halt (operandOf s.ir)) := by
    rw [decode_ok_iff, h]
    rfl
  have hbody : executeBody (s.withPhase .executing) = .next (s.withPhase .executing) :=
    executeBody_some (s := s.withPhase .executing) hdecode
  rw [executeCommand, atomicCycle_next hs hbody, ← hs]
  rfl

/-! ### A command while a cycle is in flight -/

theorem stepCommand_busy (hs : s.phase ≠ .idle) : stepCommand s = (s, .error .busy) := by
  rw [stepCommand_eq, fetchDecode, fetchCommand, atomicCycle_busy hs, ifDone_error, ifDone_error]

/-! ### The run loop -/

theorem runCommand_idle (cancels : List Bool) (hs : s.phase = .idle) : runCommand cancels s = runLoop cancels s :=
  if_pos hs

theorem runCommand_busy (cancels : List Bool) (hs : s.phase ≠ .idle) : runCommand cancels s = (s, .error .busy) :=
  if_neg hs

/-- A cycle that completes ends in Idle (10_state.md R39). -/
theorem atomicCycle_done_phase {p : Phase} {body : State → Result} (h : atomicCycle p body s = (t, .done)) :
    t.phase = .idle := by
  unfold atomicCycle at h
  split at h
  · split at h <;> cases h
    rfl
  · cases h

/-- An iteration after which the loop still runs is one in which every cycle completed; the loop then goes on from what
Execute left, whatever samples remain. -/
theorem runLoop_false_running {cancels : List Bool} (h : runLoop (false :: cancels) s = (t, .running)) :
    ∃ u, u.phase = .idle ∧ runLoop cancels u = (t, .running) ∧
      ∀ rest, runLoop (false :: rest) s = runLoop rest u := by
  simp only [runLoop_false] at h ⊢
  split at h
  · cases h
  · cases h
  next v _ =>
    split at h
    · cases h
    next hhalt =>
      split at h
      · cases h
      · cases h
      next u hexec =>
        exact ⟨u, atomicCycle_done_phase hexec, h, fun _ => if_neg hhalt⟩

/-- A loop that has used up its samples is between instructions, and goes on from there with the samples that come
after. -/
theorem runLoop_append {cancels : List Bool} (hs : s.phase = .idle) (h : runLoop cancels s = (t, .running)) :
    t.phase = .idle ∧ ∀ rest, runLoop (cancels ++ rest) s = runLoop rest t := by
  induction cancels generalizing s with
  | nil =>
    cases h
    exact ⟨hs, fun _ => rfl⟩
  | cons cancel cancels ih =>
    cases cancel with
    | true => cases h
    | false =>
      obtain ⟨u, hu, hrest, hnext⟩ := runLoop_false_running h
      obtain ⟨ht, happend⟩ := ih hu hrest
      exact ⟨ht, fun rest => (hnext _).trans (happend rest)⟩

/-! ### The obligations -/

/-- Settles O9: Decode's table look-up finds the opcode bytes of R96's rows and no other. -/
theorem decodeLoadsIrAndCurrentInstruction : Obligations.DecodeLoadsIrAndCurrentInstruction := by
  intro s hs
  rw [← not_unassigned_iff]
  refine ⟨decodeCommand_assigned hs, fun h => ?_⟩
  rw [decodeCommand_unassigned hs (not_not.mp h)]

/-- Settles O19: by induction on the samples taken before the request. -/
theorem cancellationFallsBetweenInstructions : Obligations.CancellationFallsBetweenInstructions := by
  intro before after s t hs h
  rw [runCommand_idle _ hs] at h
  obtain ⟨ht, happend⟩ := runLoop_append hs h
  rw [runCommand_idle _ hs, runCommand_idle _ hs, runCommand_idle _ ht]
  exact ⟨happend (true :: after), happend after⟩

/-- Settles O20: the loop's test comes before Execute, Execute of a HALT is a no-op, and the next Fetch is a Fetch like
any other. -/
theorem runHaltsAfterDecodingHalt : Obligations.RunHaltsAfterDecodingHalt := by
  intro s h cancels hs hpc hop
  have hfetched : fetchDecode s = (fetchedAndDecoded .idle h s, .done) :=
    fetchDecode_assigned hs hpc (hop ▸ halt_assigned)
  have hexec : executeCommand (fetchedAndDecoded .idle h s) = (fetchedAndDecoded .idle h s, .done) :=
    executeCommand_halt rfl hop
  refine ⟨?_, hexec, ?_, ?_⟩
  · rw [runCommand_idle _ hs, runLoop_false, hfetched]
    exact if_pos hop
  · rw [stepCommand_eq, hfetched, ifDone_done, hexec]
  · have hnext : PcAt (fetchedAndDecoded .idle h s) ⟨(s.pc.toNat + 1) % 256, Nat.mod_lt _ (by decide)⟩ := by
      simp only [PcAt, fetchedAndDecoded, BitVec.toNat_ofNat]
      omega
    rw [fetchCommand_slot rfl hnext]
    rfl

/-- Settles O7: the equation of a Fetch at a slot. -/
theorem fetchReadsTheSlotAtPcAndAdvances : Obligations.FetchReadsTheSlotAtPcAndAdvances :=
  fun _ _ hs hpc => fetchCommand_slot hs hpc

/-- Settles O8: PC is a slot index, where Fetch completes, or 256 or more, where it raises each time it is tried. -/
theorem fetchFailsExactlyOnABadPc : Obligations.FetchFailsExactlyOnABadPc := by
  refine ⟨fun s hs hpc => ?_, fun s hs hpc => ?_⟩
  · have hfail := fetchCommand_beyond hs hpc
    refine ⟨hfail, ?_⟩
    rw [hfail]
    exact hfail
  · rw [fetchCommand_slot (h := ⟨s.pc.toNat, hpc⟩) hs rfl]

/-- Settles O10: Decode raises in the state Fetch left, by hand as within the logical instruction. -/
theorem decodeErrorKeepsFetchAndOldIr : Obligations.DecodeErrorKeepsFetchAndOldIr := by
  intro s h hs hpc hop
  have hdecode : decodeCommand (afterFetch h s) =
      (afterFetch h s, .error (.invalidInstruction (opcodeOf (Memory.read s.mem h)))) :=
    decodeCommand_unassigned (s := afterFetch h s) hs hop
  refine ⟨?_, hdecode⟩
  rw [stepCommand_eq, fetchDecode_slot hs hpc, hdecode, ifDone_error]
  rfl

/-- Settles O12: each command is a cycle or begins with one, and the run loop is not entered. -/
theorem busyRejectsEveryCommand : Obligations.BusyRejectsEveryCommand := by
  intro s hs
  refine ⟨atomicCycle_busy hs, atomicCycle_busy hs, atomicCycle_busy hs, ?_, fun _ => runCommand_busy _ hs⟩
  rw [step, stepCommand_busy hs]
  rfl

end Sys2Proof.Machine
end

section
/-! Arithmetic (42_arithmetic.md): the six ADD forms (R191 to R196), which are one pipeline with two destinations and
three kinds of source. -/

namespace Sys2Proof.Machine

open Sys2Proof.Spec

/-- A constructor that answers `op` as its opcode and its argument as its operand has the Words with opcode byte `op`. -/
theorem encodes_of_opcode {op : Byte} {ctor : Byte → Instr} (hop : ∀ b, (ctor b).opcode = op)
    (hb : ∀ b, (ctor b).operand = b) : Encodes op ctor := by
  intro b
  have henc : encode (ctor b) = wordOf op b := by rw [encode, hop, hb]
  exact ⟨henc ▸ decode_encode (ctor b), henc⟩

/-- A state that holds the latches, the result and the flags of the Add circuit on x and y is what R133 to R135 ask. -/
theorem addDone_of_addCircuit {x y : Word} {t : State} (ha : t.alu = ⟨x, y, .add, (addCircuit x y).r⟩)
    (hp : t.psr = flagsOf (addCircuit x y)) : AddDone x y t := by
  have hz : t.alu.z = (addCircuit x y).r := congrArg Alu.z ha
  refine ⟨congrArg Alu.x ha, congrArg Alu.y ha, congrArg Alu.circuit ha, ?_, ?_, ?_, zeroAndNegative_of_flagsOf hz hp⟩
  · rw [hz, addCircuit_r_toNat]
  · rw [hp]
    exact addCarry_iff x y
  · rw [hp]
    exact addOverflow_iff x y

/-- ADD of any source into any register completes: the sum is in the register, and beside it only the ALU, the flags and
what the source's memory step writes have changed (42_arithmetic.md R190). -/
theorem computeInto_add_done (r : Gpr) (src : Source) (s : State) :
    ∃ t, computeInto .add r src s = .next t ∧ AddDone (s.gpr r) (sourceWord src r s) t ∧
      t = (((afterSource src s).withAlu t.alu).withPsr t.psr).withGpr r t.alu.z := by
  refine ⟨_, computeInto_add s r src, addDone_of_addCircuit ?_ ?_, ?_⟩ <;> simp

/-- Settles O31: each form is the pipeline at its destination and source, and its opcode is the constructor's own. -/
theorem addFormsAddAndWriteAllFlags : Obligations.AddFormsAddAndWriteAllFlags := by
  refine ⟨⟨?_, ?_, ?_, ?_, ?_, ?_⟩, fun s b => ⟨?_, ?_, ?_, ?_, ?_, ?_⟩⟩
  iterate 6 exact encodes_of_opcode (fun _ => rfl) (fun _ => rfl)
  · exact computeInto_add_done .a (.immediate b) s
  · exact computeInto_add_done .b (.immediate b) s
  · exact computeInto_add_done .a (.direct b) s
  · exact computeInto_add_done .b (.direct b) s
  · exact computeInto_add_done .a .register s
  · exact computeInto_add_done .b .register s

end Sys2Proof.Machine
end

section
/-! MOVE (43_move.md): the four forms into a register (R221 to R224), the direct stores (R225, R226) and the indirect
stores (R227, R228). The two kinds of store end alike, with one slot written through MAR, MEM.ptr and MDR. -/

namespace Sys2Proof.Machine

open Sys2Proof.Spec

/-! ### The stores -/

/-- An operation that ends as the engine's write of `w` at slot `p` does (20_memory.md R66) completes, stores `w` in that
slot alone, and beside memory writes MAR, MDR and MEM.ptr. -/
theorem stores_one_slot {s : State} (hm : Memory.wf s.mem = true) {o : Result} {a w : Word} {p : SlotIndex}
    (h : o = .next ((((s.withMar a).withPtr p).withMdr w).withMem (Memory.write s.mem p w))) :
    ∃ t, o = .next t ∧
      (∀ c, Memory.read t.mem c = if c = p.val then w else Memory.read s.mem c) ∧
      t = { s with mar := a, mdr := w, ptr := p, mem := t.mem } :=
  ⟨_, h, Memory.read_write hm p w, rfl⟩

/-- An Execute whose instruction raises leaves the state as it was (41_sequencer.md R168). -/
theorem executeCommand_fault {s : State} {i : Instr} {f : Fault} (hs : s.phase = .idle) (hi : decode s.ir = .ok i)
    (h : exec i (s.withPhase .executing) = .fault f) : executeCommand s = (s, .error f) :=
  atomicCycle_fault hs ((executeBody_some (s := s.withPhase .executing) hi).trans h)

/-! ### The obligations -/

/-- Settles O36: a direct store is the engine's write at its operand byte, which is always a slot index. -/
theorem directStoresWriteOneSlot : Obligations.DirectStoresWriteOneSlot := by
  refine ⟨⟨?_, ?_⟩, fun s b hm => ⟨?_, ?_⟩⟩
  iterate 2 exact encodes_of_opcode (fun _ => rfl) (fun _ => rfl)
  · exact stores_one_slot hm (storeReg_direct b .a s)
  · exact stores_one_slot hm (storeReg_direct b .b s)

/-- Settles O37: the pointer Word is a slot index, where the store is the engine's write at that slot, or 256 or more,
where it raises and the Execute cycle is undone. -/
theorem indirectStoresWriteThroughThePointer : Obligations.IndirectStoresWriteThroughThePointer := by
  have hencA : Encodes 0x19#8 .moveAToInd := encodes_of_opcode (fun _ => rfl) (fun _ => rfl)
  have hencB : Encodes 0x1A#8 .moveBToInd := encodes_of_opcode (fun _ => rfl) (fun _ => rfl)
  refine ⟨⟨hencA, hencB⟩, fun s b hm => ⟨fun p hp => ⟨?_, ?_⟩, fun hp => ⟨?_, ?_, fun hs hir => ?_⟩⟩⟩
  · exact stores_one_slot hm (storeIndirect_slot hp .a)
  · exact stores_one_slot hm (storeIndirect_slot hp .b)
  · exact storeIndirect_beyond hp .a
  · exact storeIndirect_beyond hp .b
  · have hraise := storeIndirect_beyond (s := s.withPhase .executing) hp
    rcases hir with hir | hir
    · exact executeCommand_fault (i := .moveAToInd b) hs (hir ▸ (hencA b).1) (hraise .a)
    · exact executeCommand_fault (i := .moveBToInd b) hs (hir ▸ (hencB b).1) (hraise .b)

/-- Settles O35: an immediate is one register write, a load is the read of the slot and then that write. -/
theorem movesIntoARegister : Obligations.MovesIntoARegister := by
  refine ⟨⟨?_, ?_, ?_, ?_⟩, fun s b => ⟨?_, ?_, ?_, ?_⟩⟩
  iterate 4 exact encodes_of_opcode (fun _ => rfl) (fun _ => rfl)
  · exact exec_moveImmA b s
  · exact exec_moveImmB b s
  · exact loadReg_eq b s .a
  · exact loadReg_eq b s .b

end Sys2Proof.Machine
end

section
/-! JMP and the branches (44_control.md): JMP #t (R241) and the eight branches (R243 to R250), which are four flags with
two senses each. -/

namespace Sys2Proof.Machine

open Sys2Proof.Spec

/-- A branch on a clear flag: PC written when the flag is false. -/
theorem branchIf_not_eq (b : Byte) (s : State) (flag : Bool) :
    branchIf (!flag) b s = .next (if flag = false then s.withPc (b.setWidth 16) else s) := by
  rw [branchIf_eq]
  simp only [Bool.not_eq_true']

/-! ### The obligations -/

/-- Settles O38: a JMP to an immediate is one write of PC. -/
theorem jmpImmediateWritesPc : Obligations.JmpImmediateWritesPc :=
  ⟨encodes_of_opcode (fun _ => rfl) (fun _ => rfl), fun s b => exec_jmpImm b s⟩

/-- Settles O40: each branch is the shared one, guarded by its flag or by the flag's negation. -/
theorem branchesTestOneFlag : Obligations.BranchesTestOneFlag := by
  refine ⟨⟨?_, ?_, ?_, ?_, ?_, ?_, ?_, ?_⟩, fun s b => ⟨?_, ?_, ?_, ?_, ?_, ?_, ?_, ?_⟩⟩
  iterate 8 exact encodes_of_opcode (fun _ => rfl) (fun _ => rfl)
  · exact branchIf_eq b s s.psr.c
  · exact branchIf_not_eq b s s.psr.c
  · exact branchIf_eq b s s.psr.n
  · exact branchIf_not_eq b s s.psr.n
  · exact branchIf_eq b s s.psr.z
  · exact branchIf_not_eq b s s.psr.z
  · exact branchIf_eq b s s.psr.v
  · exact branchIf_not_eq b s s.psr.v

end Sys2Proof.Machine
end

section
/-! The logical instruction (41_sequencer.md R160, R166 to R168; 60_exceptions.md R261, R262): Execute's dispatch, what a
step does from every state, when it raises, and how a run goes on step by step. -/

namespace Sys2Proof.Machine

open Sys2Proof.Spec

variable {s t : State}

/-! ### What exec can raise -/

/-- An instruction raises exactly where it is an indirect store whose pointer Word is no slot index. -/
theorem exec_fault_iff {i : Instr} {f : Fault} :
    exec i s = .fault f ↔
      (i.opcode = 0x19#8 ∨ i.opcode = 0x1A#8) ∧ 256 ≤ (Memory.read s.mem i.operand.toNat).toNat ∧
        f = .addressOutOfRange (Memory.read s.mem i.operand.toNat).toNat := by
  constructor
  · intro h
    rcases exec_next_or_fault i s with ⟨t, ht⟩ | ⟨b, hi, hb, hf⟩
    · rw [ht] at h
      cases h
    · rw [hf] at h
      cases h
      rcases hi with rfl | rfl
      · exact ⟨.inl rfl, hb, rfl⟩
      · exact ⟨.inr rfl, hb, rfl⟩
  · rintro ⟨hop, hb, rfl⟩
    cases i
    case moveAToInd | moveBToInd => exact storeIndirect_beyond hb _
    all_goals simp [Instr.opcode] at hop

/-- The one error of a micro-sequence is SetPtr's (41_sequencer.md R168). -/
theorem exec_fault_address {i : Instr} {f : Fault} (h : exec i s = .fault f) :
    ∃ a, 256 ≤ a ∧ f = .addressOutOfRange a := by
  obtain ⟨-, hb, rfl⟩ := exec_fault_iff.mp h
  exact ⟨_, hb, rfl⟩

theorem exec_ne_refused (i : Instr) (s : State) (q : Refusal) : exec i s ≠ .refused q := by
  rcases exec_next_or_fault i s with ⟨t, h⟩ | ⟨b, -, -, h⟩ <;> simp [h]

/-! ### Execute -/

/-- An Execute whose instruction completes leaves what the instruction left, and the phase is Idle again. -/
theorem executeCommand_next {i : Instr} (hs : s.phase = .idle) (hi : decode s.ir = .ok i)
    (h : exec i (s.withPhase .executing) = .next t) : executeCommand s = (t.withPhase .idle, .done) :=
  atomicCycle_next hs ((executeBody_some (s := s.withPhase .executing) hi).trans h)

/-- An Execute with no dispatch entry raises, in the state as it was (41_sequencer.md R167). -/
theorem executeCommand_unassigned (hs : s.phase = .idle) (h : Unassigned (opcodeOf s.ir)) :
    executeCommand s = (s, .error (.invalidInstruction (opcodeOf s.ir))) :=
  atomicCycle_fault hs (executeBody_none (s := s.withPhase .executing) ((opmap_none_iff _ _).mpr h))

/-- Execute's dispatch completes only as an instruction. -/
theorem executeBody_next (h : executeBody s = .next t) : ∃ i, exec i s = .next t := by
  unfold executeBody at h
  split at h
  next i _ => exact ⟨i, h⟩
  next => cases h

/-- Execute does not clear IR (41_sequencer.md R166). -/
theorem executeCommand_ir (s : State) : (executeCommand s).1.ir = s.ir := by
  refine atomicCycle_keeps State.ir (fun _ _ => rfl) (fun u t h => ?_) s
  obtain ⟨i, hi⟩ := executeBody_next h
  exact (exec_keeps_engine hi).1

/-! ### Decoding a Word -/

/-- The instruction a Word decodes to has the Word's two bytes. -/
theorem bytes_of_decode {w : Word} {i : Instr} (h : decode w = .ok i) :
    i.opcode = opcodeOf w ∧ i.operand = operandOf w :=
  opmap_some ((decode_ok_iff w i).mp h)

/-- A Word that decodes has an opcode byte with a row in the table. -/
theorem not_unassigned_of_decode {w : Word} {i : Instr} (h : decode w = .ok i) : ¬ Unassigned (opcodeOf w) := by
  intro hop
  have hsome := (decode_ok_iff w i).mp h
  rw [(opmap_none_iff _ _).mpr hop] at hsome
  cases hsome

/-- Every Word decodes to an instruction or has an illegal opcode byte. -/
theorem decodes_or_unassigned (w : Word) : (∃ i, decode w = .ok i) ∨ Unassigned (opcodeOf w) := by
  cases h : Config.opmap (opcodeOf w) (operandOf w) with
  | some i => exact .inl ⟨i, (decode_ok_iff w i).mpr h⟩
  | none => exact .inr ((opmap_none_iff _ _).mp h)

/-! ### The step -/

/-- A step at a PC that is no slot index is its Fetch, which raises. -/
theorem stepCommand_beyond (hs : s.phase = .idle) (hpc : 256 ≤ s.pc.toNat) :
    stepCommand s = (s, .error (.addressOutOfRange s.pc.toNat)) := by
  rw [stepCommand_eq, fetchDecode, fetchCommand_beyond hs hpc, ifDone_error, ifDone_error]

/-- A step at a slot whose Word decodes is Execute of what Fetch and Decode left. -/
theorem stepCommand_decoded {h : SlotIndex} {i : Instr} (hs : s.phase = .idle) (hpc : PcAt s h)
    (hi : decode (Memory.read s.mem h) = .ok i) :
    stepCommand s = executeCommand (fetchedAndDecoded .idle h s) := by
  rw [stepCommand_eq, fetchDecode_assigned hs hpc (not_unassigned_of_decode hi), ifDone_done]

/-- A cycle as an outcome: its body, in its phase, and then Idle. -/
theorem outcomeOf_atomicCycle {p : Phase} {body : State → Result} (hs : s.phase = .idle) :
    outcomeOf (atomicCycle p body s) = andThen (body (s.withPhase p)) fun t => .next (t.withPhase .idle) := by
  cases h : body (s.withPhase p) <;> simp [atomicCycle, hs, h, outcomeOf]

/-- R160: a step at a slot whose Word decodes runs the instruction, and then the phase is Idle. -/
theorem step_decoded {h : SlotIndex} {i : Instr} (hs : s.phase = .idle) (hpc : PcAt s h)
    (hi : decode (Memory.read s.mem h) = .ok i) :
    step s = andThen (exec i (fetchedAndDecoded .executing h s)) fun t => .next (t.withPhase .idle) := by
  rw [step, stepCommand_decoded hs hpc hi, executeCommand, outcomeOf_atomicCycle rfl,
    executeBody_some (s := (fetchedAndDecoded .idle h s).withPhase .executing) hi]
  rfl

/-- All a step can do, by the phase, PC and the Word PC names. -/
theorem step_cases (s : State) :
    (s.phase ≠ .idle ∧ step s = .fault .busy) ∨
    (s.phase = .idle ∧ 256 ≤ s.pc.toNat ∧ step s = .fault (.addressOutOfRange s.pc.toNat)) ∨
    ∃ h : SlotIndex, s.phase = .idle ∧ PcAt s h ∧
      ((Unassigned (opcodeOf (Memory.read s.mem h)) ∧
          step s = .fault (.invalidInstruction (opcodeOf (Memory.read s.mem h)))) ∨
        ∃ i, decode (Memory.read s.mem h) = .ok i ∧
          step s = andThen (exec i (fetchedAndDecoded .executing h s)) fun t => .next (t.withPhase .idle)) := by
  by_cases hs : s.phase = .idle
  · rcases slot_or_beyond s.pc with ⟨h, hpc⟩ | hpc
    · refine .inr (.inr ⟨h, hs, hpc, ?_⟩)
      rcases decodes_or_unassigned (Memory.read s.mem h) with ⟨i, hi⟩ | hop
      · exact .inr ⟨i, hi, step_decoded hs hpc hi⟩
      · refine .inl ⟨hop, ?_⟩
        rw [step, (decodeErrorKeepsFetchAndOldIr s h hs hpc hop).1]
        rfl
    · refine .inr (.inl ⟨hs, hpc, ?_⟩)
      rw [step, stepCommand_beyond hs hpc]
      rfl
  · refine .inl ⟨hs, ?_⟩
    rw [step, stepCommand_busy hs]
    rfl

/-- A step that completes has run the instruction at PC on what Fetch and Decode left. -/
theorem step_next (hstep : step s = .next t) :
    ∃ (h : SlotIndex) (i : Instr) (u : State), s.phase = .idle ∧ PcAt s h ∧ decode (Memory.read s.mem h) = .ok i ∧
      exec i (fetchedAndDecoded .executing h s) = .next u ∧ t = u.withPhase .idle := by
  rcases step_cases s with ⟨-, h⟩ | ⟨-, -, h⟩ | ⟨h, hs, hpc, ⟨-, h'⟩ | ⟨i, hi, h'⟩⟩
  · simp [h] at hstep
  · simp [h] at hstep
  · simp [h'] at hstep
  · rw [h', andThen_eq_next] at hstep
    obtain ⟨u, hu, ht⟩ := hstep
    cases ht
    exact ⟨h, i, u, hs, hpc, hi, hu, rfl⟩

/-- A sequence whose second part always completes raises exactly what its first part does. -/
theorem andThen_next_eq_fault_iff (r : Result) (g : State → State) (f : Fault) :
    andThen r (fun u => .next (g u)) = .fault f ↔ r = .fault f := by
  cases r <;> simp

theorem step_ne_refused (s : State) (q : Refusal) : step s ≠ .refused q := by
  rcases step_cases s with ⟨-, h⟩ | ⟨-, -, h⟩ | ⟨h, -, -, ⟨-, h'⟩ | ⟨i, -, h'⟩⟩
  · simp [h]
  · simp [h]
  · simp [h']
  · rw [h']
    cases hexec : exec i (fetchedAndDecoded .executing h s) with
    | next u => simp
    | fault f => simp
    | refused q' => exact absurd hexec (exec_ne_refused _ _ _)

/-- Settles O6: the step as an equation, in the two cases of exec. -/
theorem stepRunsTheDecodedInstruction : Obligations.StepRunsTheDecodedInstruction := by
  intro s h i hs hpc hi
  rw [step_decoded hs hpc hi]
  refine ⟨fun t ht => ?_, fun f hf => ?_⟩
  · rw [ht]
    rfl
  · rw [hf]
    rfl

/-- Settles O11: the dispatch by whether IR decodes, and what the cycle keeps of IR. -/
theorem executeDispatchesOnIr : Obligations.ExecuteDispatchesOnIr := by
  intro s hs
  refine ⟨fun i hi => ⟨fun t ht => ?_, fun f hf => ?_⟩, executeCommand_unassigned hs, executeCommand_ir s⟩
  · exact executeCommand_next hs hi ht
  · exact executeCommand_fault hs hi hf

/-- Settles O13: the step is Execute of what Fetch and Decode left, and an Execute that raises is undone. -/
theorem executeErrorKeepsFetchAndDecode : Obligations.ExecuteErrorKeepsFetchAndDecode := by
  refine ⟨fun s h i f hs hpc hi hf => ?_, fun i s f => exec_fault_address⟩
  rw [stepCommand_decoded hs hpc hi]
  exact executeCommand_fault (s := fetchedAndDecoded .idle h s) rfl hi hf

/-- Settles O16: exec completes or raises, and a step adds no refusal of its own. -/
theorem noInstructionIsRefused : Obligations.NoInstructionIsRefused := ⟨exec_ne_refused, step_ne_refused⟩

/-- Settles O15: the four cases of a step, each with the one error it raises. -/
theorem stepFaultsExactlyWhenTheSpecSays : Obligations.StepFaultsExactlyWhenTheSpecSays := by
  intro s f
  rcases step_cases s with ⟨hs, h⟩ | ⟨hs, hpc, h⟩ | ⟨h, hs, hpc, hword⟩
  · simp [h, hs, eq_comm]
  · simp [h, hs, hpc, Nat.not_lt.mpr hpc, eq_comm]
  · have hlt : s.pc.toNat < 256 := hpc ▸ h.isLt
    simp only [hs, hlt, Nat.not_le.mpr hlt, ne_eq, not_true_eq_false, false_and, true_and, false_or]
    rw [show s.pc.toNat = h.val from hpc]
    rcases hword with ⟨hop, h'⟩ | ⟨i, hi, h'⟩
    · have h19 : opcodeOf (Memory.read s.mem h) ≠ 0x19#8 := fun heq => by simp [heq, Unassigned] at hop
      have h1A : opcodeOf (Memory.read s.mem h) ≠ 0x1A#8 := fun heq => by simp [heq, Unassigned] at hop
      simp [h', hop, h19, h1A, eq_comm]
    · obtain ⟨hopcode, hoperand⟩ := bytes_of_decode hi
      rw [h', andThen_next_eq_fault_iff, exec_fault_iff, hopcode, hoperand]
      simp [not_unassigned_of_decode hi, fetchedAndDecoded]

/-! ### Errors -/

/-- A cycle in a sequence raises as the cycle before it did, or in the state that cycle left. -/
theorem ifDone_eq_error {p : State × Reply} {next : State → State × Reply} {f : Fault}
    (h : ifDone p next = (t, .error f)) :
    p = (t, .error f) ∨ ∃ u, p = (u, .done) ∧ next u = (t, .error f) := by
  obtain ⟨u, reply⟩ := p
  cases reply with
  | done => exact .inr ⟨u, rfl, h⟩
  | error e => exact .inl h
  | refused q => cases h

/-- A component operation that raises has changed nothing. -/
theorem attempt_error {r : Result} {answer : State → Answer} {f : Fault} (hanswer : ∀ u, answer u ≠ .error f)
    (h : attempt r s answer = (t, .error f)) : t = s := by
  cases r with
  | next u => exact absurd (Prod.mk.inj h).2 (hanswer u)
  | fault e =>
    cases h
    rfl
  | refused q => cases h

/-- A cycle's command that is answered with an error has changed nothing. -/
theorem answerOf_atomicCycle_error {p : Phase} {body : State → Result} {f : Fault}
    (h : answerOf (atomicCycle p body s) = (t, .error f)) : t = s := by
  cases hreply : atomicCycle p body s with
  | mk u reply =>
    rw [hreply] at h
    cases reply <;> cases h
    exact atomicCycle_error hreply

/-- A call made while the phase is Idle that answers an error has changed nothing, unless it is the sequence. -/
theorem idleCall_error {c : HostCall} {f : Fault} (hc : c ≠ .step) (h : idleCall c s = (t, .error f)) : t = s := by
  cases c
  case step => exact absurd rfl hc
  case fetch | decode | execute => exact answerOf_atomicCycle_error h
  case setPointer | computeZ => exact attempt_error (by simp) h
  case memRead a =>
    by_cases ha : a < Config.memSlots <;> simp [idleCall, hostRead, ha] at h
    exact h.1.symm
  case memWrite a w =>
    by_cases ha : a < Config.memSlots <;> simp [idleCall, hostWrite, ha] at h
    exact h.1.symm
  all_goals cases h

/-- Settles O14: call by call for the host's, cycle by cycle for the sequence. -/
theorem anErrorUndoesItsCycleAlone : Obligations.AnErrorUndoesItsCycleAlone := by
  refine ⟨fun c s t f hc h => ?_, fun s t f h => ?_⟩
  · by_cases hs : s.phase = .idle
    · rw [hostCall_idle _ hs] at h
      exact idleCall_error hc h
    · rw [hostCall, if_neg hs] at h
      cases h
      rfl
  · rw [stepCommand_eq] at h
    rcases ifDone_eq_error h with hfirst | ⟨u, hfirst, hexec⟩
    · rcases ifDone_eq_error hfirst with hfetch | ⟨u, hfetch, hdecode⟩
      · obtain rfl := atomicCycle_error hfetch
        exact .inl ⟨hfetch, rfl⟩
      · obtain rfl := atomicCycle_error hdecode
        exact .inr (.inl ⟨hfetch, hdecode⟩)
    · obtain rfl := atomicCycle_error hexec
      exact .inr (.inr ⟨hfirst, hexec⟩)

/-! ### A run, step by step -/

/-- Fetch and Decode that complete end in Idle. -/
theorem fetchDecode_done_phase (h : fetchDecode s = (t, .done)) : t.phase = .idle := by
  unfold fetchDecode ifDone at h
  split at h
  next => exact atomicCycle_done_phase h
  next hreply => simp [h] at hreply
  next hreply => simp [h] at hreply

/-- A step that completes has completed Fetch and Decode, and then Execute. -/
theorem stepCommand_done (h : stepCommand s = (t, .done)) :
    ∃ u, fetchDecode s = (u, .done) ∧ executeCommand u = (t, .done) := by
  rw [stepCommand_eq] at h
  unfold ifDone at h
  split at h
  next hreply => exact ⟨_, Prod.ext rfl hreply, h⟩
  next hreply => simp [h] at hreply
  next hreply => simp [h] at hreply

/-- An iteration whose step completes ends the loop on a HALT, and otherwise goes on from what the step left. -/
theorem runLoop_of_step_done (cancels : List Bool) (h : stepCommand s = (t, .done)) :
    runLoop (false :: cancels) s = if opcodeOf t.ir = 0xFF#8 then (t, .halted) else runLoop cancels t := by
  obtain ⟨u, hfetched, hexec⟩ := stepCommand_done h
  have hir : t.ir = u.ir := by simpa [hexec] using executeCommand_ir u
  by_cases hop : opcodeOf u.ir = 0xFF#8
  · have hu : t = u := by
      rw [executeCommand_halt (fetchDecode_done_phase hfetched) hop] at hexec
      cases hexec
      rfl
    simp [runLoop_false, hfetched, Config.haltOpcode, hu, hop]
  · simp [runLoop_false, hfetched, hexec, Config.haltOpcode, hir, hop]

/-- An iteration whose step raises ends the loop with that error and that state (41_sequencer.md R171). -/
theorem runLoop_of_step_error {f : Fault} (cancels : List Bool) (h : stepCommand s = (t, .error f)) :
    runLoop (false :: cancels) s = (t, .error f) := by
  rw [stepCommand_eq] at h
  rcases ifDone_eq_error h with hfirst | ⟨u, hfirst, hexec⟩
  · simp [runLoop_false, hfirst]
  · have hop : opcodeOf u.ir ≠ 0xFF#8 := by
      intro hop
      rw [executeCommand_halt (fetchDecode_done_phase hfirst) hop] at hexec
      cases hexec
    simp [runLoop_false, hfirst, hexec, Config.haltOpcode, hop]

/-- A step's command completes or answers an error. -/
theorem stepCommand_done_or_error (s : State) :
    (∃ t, stepCommand s = (t, .done)) ∨ ∃ t f, stepCommand s = (t, .error f) := by
  cases h : stepCommand s with
  | mk t reply =>
    cases reply with
    | done => exact .inl ⟨t, rfl⟩
    | error f => exact .inr ⟨t, f, rfl⟩
    | refused q => exact absurd (by rw [step, h]; rfl) (step_ne_refused s q)

/-- The steps after one that completed are the steps from the state it left. -/
theorem coreRun_succ (k : Nat) (h : stepCommand s = (t, .done)) :
    Host.Core.run core (k + 1) s = Host.Core.run core k t := by
  have hstep : core.step s = .next t := by
    change step s = .next t
    rw [step, h]
    rfl
  simp only [Host.Core.run, hstep]

/-- The steps that match a run of those samples from `s` which ends in `t` in the given way (41_sequencer.md R175). -/
def MatchedBySteps (cancels : List Bool) (s t : State) : RunEnd → Prop
  | .halted => ∃ k, k ≤ cancels.length ∧ Host.Core.run core k s = .next t ∧ opcodeOf t.ir = 0xFF#8
  | .cancelled => ∃ k, k < cancels.length ∧ Host.Core.run core k s = .next t
  | .running => Host.Core.run core cancels.length s = .next t
  | .error f => ∃ k u, k < cancels.length ∧ Host.Core.run core k s = .next u ∧ stepCommand u = (t, .error f)
  | .refused _ => False

/-- What matches the rest of a run matches the run, one step later. -/
theorem MatchedBySteps.after_step {cancels : List Bool} {u : State} {e : RunEnd} (h : stepCommand s = (u, .done))
    (hrest : MatchedBySteps cancels u t e) : MatchedBySteps (false :: cancels) s t e := by
  cases e with
  | halted =>
    obtain ⟨k, hk, hrun, hop⟩ := hrest
    exact ⟨k + 1, Nat.succ_le_succ hk, (coreRun_succ k h).trans hrun, hop⟩
  | cancelled =>
    obtain ⟨k, hk, hrun⟩ := hrest
    exact ⟨k + 1, Nat.succ_lt_succ hk, (coreRun_succ k h).trans hrun⟩
  | error f =>
    obtain ⟨k, v, hk, hrun, herr⟩ := hrest
    exact ⟨k + 1, v, Nat.succ_lt_succ hk, (coreRun_succ k h).trans hrun, herr⟩
  | refused q => exact hrest
  | running => exact (coreRun_succ _ h).trans hrest

/-- Every run is matched by steps, by induction on its samples. -/
theorem runLoop_matchedBySteps (cancels : List Bool) (s : State) :
    MatchedBySteps cancels s (runLoop cancels s).1 (runLoop cancels s).2 := by
  induction cancels generalizing s with
  | nil => exact rfl
  | cons cancel cancels ih =>
    cases cancel with
    | true => exact ⟨0, Nat.succ_pos _, rfl⟩
    | false =>
      rcases stepCommand_done_or_error s with ⟨u, h⟩ | ⟨u, f, h⟩
      · rw [runLoop_of_step_done cancels h]
        split
        next hop => exact ⟨1, Nat.succ_le_succ (Nat.zero_le _), coreRun_succ 0 h, hop⟩
        next => exact (ih u).after_step h
      · rw [runLoop_of_step_error cancels h]
        exact ⟨0, s, Nat.succ_pos _, rfl, h⟩

/-- Settles O18: each end of a run is matched by steps. -/
theorem runAgreesWithStepping : Obligations.RunAgreesWithStepping := by
  intro cancels s t hs
  have hends {e : RunEnd} (h : runCommand cancels s = (t, e)) : MatchedBySteps cancels s t e := by
    rw [runCommand_idle _ hs] at h
    simpa [h] using runLoop_matchedBySteps cancels s
  exact ⟨hends, hends, hends, fun _ => hends, fun _ => hends⟩

/-- Settles O21: the error of the step is the error of the loop's first iteration. -/
theorem runEndsAtTheFirstError : Obligations.RunEndsAtTheFirstError := by
  intro s t f cancels hs h
  rw [runCommand_idle _ hs]
  exact runLoop_of_step_error cancels h

end Sys2Proof.Machine
end

section
/-! What an instruction leaves unchanged (10_state.md R22, R31; 20_memory.md R61, R67; 40_alu.md R146), and the invariant
of a machine that only runs instructions. -/

namespace Sys2Proof.Machine

open Sys2Proof.Spec

variable {s t : State} {i : Instr}

/-! ### Registers, pointer and memory -/

/-- A general register is written only as the destination; MAR, MDR and MEM.ptr only by the direct and indirect forms. -/
theorem exec_keeps_registers (h : exec i s = .next t) :
    (¬ WritesGpa i → t.gpa = s.gpa) ∧ (¬ WritesGpb i → t.gpb = s.gpb) ∧
      (¬ UsesMemory i → t.mar = s.mar ∧ t.mdr = s.mdr ∧ t.ptr = s.ptr) := by
  cases i
  case moveAToInd | moveBToInd =>
    obtain ⟨p, -, rfl⟩ := storeIndirect_next h
    exact ⟨fun _ => rfl, fun _ => rfl, fun hi => absurd (by simp [UsesMemory, Instr.opcode]) hi⟩
  case bcs | bcc | bns | bnc | bzs | bzc | bvs | bvc =>
    obtain rfl | rfl := branchIf_next h <;> exact ⟨fun _ => rfl, fun _ => rfl, fun _ => ⟨rfl, rfl, rfl⟩⟩
  all_goals
    simp [compareWith_eq] at h
    subst h
    simp [WritesGpa, WritesGpb, UsesMemory, Instr.opcode, afterSource]

/-- Memory is kept, or it is a store's one write, at a slot index. -/
theorem exec_mem (h : exec i s = .next t) :
    (storeOf i s = none ∧ t.mem = s.mem) ∨
      ∃ (p : SlotIndex) (w : Word), storeOf i s = some (p.val, w) ∧ t.mem = Memory.write s.mem p w := by
  cases i
  case moveAToInd | moveBToInd =>
    obtain ⟨p, hp, rfl⟩ := storeIndirect_next h
    exact .inr ⟨p, _, by rw [storeOf, hp]; rfl, rfl⟩
  case moveAToDir b | moveBToDir b =>
    simp at h
    subst h
    exact .inr ⟨slotOf b, _, rfl, rfl⟩
  case bcs | bcc | bns | bnc | bzs | bzc | bvs | bvc =>
    obtain rfl | rfl := branchIf_next h <;> exact .inl ⟨rfl, rfl⟩
  all_goals
    simp [compareWith_eq] at h
    subst h
    exact .inl ⟨rfl, rfl⟩

/-- An instruction that moves the pointer moves it to the slot MAR names (20_memory.md R66). -/
theorem exec_pointer (h : exec i s = .next t) : (t.mar = s.mar ∧ t.ptr = s.ptr) ∨ t.mar.toNat = t.ptr.val := by
  cases i
  case moveAToInd | moveBToInd =>
    obtain ⟨p, hp, rfl⟩ := storeIndirect_next h
    exact .inr hp
  case bcs | bcc | bns | bnc | bzs | bzc | bvs | bvc =>
    obtain rfl | rfl := branchIf_next h <;> exact .inl ⟨rfl, rfl⟩
  case addDirA | addDirB | subDirA | subDirB | compareDirA | compareDirB | moveDirToA | moveDirToB | moveAToDir
      | moveBToDir | jmpDir =>
    simp [compareWith_eq] at h
    subst h
    exact .inr (setWidth_toNat _)
  all_goals
    simp [compareWith_eq] at h
    subst h
    exact .inl ⟨rfl, rfl⟩

/-- An instruction that uses the ALU selects Add or Sub (40_alu.md R146). -/
theorem exec_circuit (hi : UsesAlu i) (h : exec i s = .next t) : t.alu.circuit = .add ∨ t.alu.circuit = .sub := by
  cases i
  case addImmA | addImmB | addDirA | addDirB | addBA | addAB =>
    simp at h
    exact .inl (by simp [← h])
  case subImmA | subImmB | subDirA | subDirB | subBA | subAB
      | compareImmA | compareImmB | compareDirA | compareDirB | compareBA | compareAB =>
    simp [compareWith_eq] at h
    exact .inr (by simp [← h])
  all_goals exact absurd hi (by simp [UsesAlu, Instr.opcode])

/-! ### The invariant, part by part -/

/-- A store's slot is in the array, so memory stays canonical. -/
theorem exec_keeps_wf (h : exec i s = .next t) (hm : Memory.wf s.mem = true) : Memory.wf t.mem = true := by
  rcases exec_mem h with ⟨-, hmem⟩ | ⟨p, w, -, hmem⟩
  · rw [hmem, hm]
  · rw [hmem, Memory.write_wf hm p.isLt w]

theorem marIsPtr_iff (s : State) : s.marIsPtr = true ↔ s.mar.toNat = s.ptr.val := by
  have := s.ptr.isLt
  rw [State.marIsPtr, beq_iff_eq, ← BitVec.toNat_inj, BitVec.toNat_ofNat]
  omega

theorem exec_keeps_marIsPtr (h : exec i s = .next t) (hmar : s.marIsPtr = true) : t.marIsPtr = true := by
  rw [marIsPtr_iff] at hmar ⊢
  rcases exec_pointer h with ⟨hm, hp⟩ | hmp
  · rw [hm, hp, hmar]
  · exact hmp

/-- The ALU is settled where Add or Sub is selected and Z is its result on the latches. -/
theorem aluSettled_iff (s : State) :
    s.aluSettled = true ↔ (s.alu.circuit = .add ∨ s.alu.circuit = .sub) ∧
      ∃ a, circuitResult s.alu.circuit s.alu.x s.alu.y = some a ∧ a.r = s.alu.z := by
  simp [State.aluSettled]

theorem exec_keeps_aluSettled (h : exec i s = .next t) (halu : s.aluSettled = true) : t.aluSettled = true := by
  by_cases hi : UsesAlu i
  · obtain ⟨a, ha, hz, -⟩ := exec_aluComputed hi h
    exact (aluSettled_iff t).mpr ⟨exec_circuit hi h, a, ha, hz.symm⟩
  · rw [State.aluSettled, (exec_keeps_alu hi h).1]
    exact halu

/-- Fetch leaves MAR at the pointer's address. -/
theorem fetchedAndDecoded_marIsPtr {h : SlotIndex} (p : Phase) (hpc : PcAt s h) :
    (fetchedAndDecoded p h s).marIsPtr = true :=
  (marIsPtr_iff _).mpr hpc

/-! ### The obligations -/

/-- Settles O46: Fetch and Decode set MAR to the pointer's address and ENG.cur to IR's opcode; canonical memory, the
pointer's address and the settled ALU are then kept by the instruction. -/
theorem everyStepKeepsTheInvariant : Obligations.EveryStepKeepsTheInvariant := by
  intro s t hinv hstep
  obtain ⟨hmem, -, -, -, halu⟩ := hinv
  obtain ⟨h, i, u, -, hpc, hi, hexec, rfl⟩ := step_next hstep
  obtain ⟨hir, -, hcur⟩ := exec_keeps_engine hexec
  have hwf : Memory.wf u.mem = true := exec_keeps_wf hexec hmem
  have hmar : u.marIsPtr = true := exec_keeps_marIsPtr hexec (fetchedAndDecoded_marIsPtr _ hpc)
  have hsettled : u.aluSettled = true := exec_keeps_aluSettled hexec halu
  refine ⟨⟨hwf, rfl, ?_, hmar, hsettled⟩, _, hcur⟩
  have htable := instrTable_assigned (not_unassigned_of_decode hi)
  simpa [State.curMatchesIr, hir, hcur, fetchedAndDecoded] using htable

/-- Settles O47: memory is empty, and Z is the sum of the two latches, 0. -/
theorem resetHasTheInvariant : Obligations.ResetHasTheInvariant := by
  have hsum : (addCircuit 0x0000#16 0x0000#16).r = 0x0000#16 := by decide
  exact ⟨Memory.wf_nil, rfl, rfl, (marIsPtr_iff _).mpr rfl, (aluSettled_iff _).mpr ⟨.inl rfl, _, rfl, hsum⟩⟩

/-- Settles O42: field by field, by the lemma on what writes it. -/
theorem eachInstructionsFrame : Obligations.EachInstructionsFrame := by
  intro i s t h
  obtain ⟨hgpa, hgpb, hpointer⟩ := exec_keeps_registers h
  exact ⟨hgpa, hgpb, fun hi => exec_keeps_alu hi h, fun hi => exec_keeps_pc hi h, hpointer, exec_keeps_engine h⟩

/-- Settles O43: a store is the one write `exec_mem` names, and reads after it are those of `Memory.read_write`. -/
theorem eachInstructionsMemoryFrame : Obligations.EachInstructionsMemoryFrame := by
  intro i s t hm h
  rcases exec_mem h with ⟨hnone, hmem⟩ | ⟨p, w, hsome, hmem⟩
  · refine ⟨fun _ a => by rw [hmem], fun a w hsome => ?_⟩
    rw [hnone] at hsome
    cases hsome
  · refine ⟨fun hnone => ?_, fun a w' hstore => ?_⟩
    · rw [hnone] at hsome
      cases hsome
    · rw [hsome] at hstore
      cases hstore
      refine ⟨p.isLt, ?_, fun a' ha' => ?_⟩
      · rw [hmem, Memory.read_write hm, if_pos rfl]
      · rw [hmem, Memory.read_write hm, if_neg ha']

/-- Settles O17: ADD, SUB and COMPARE select Add or Sub, and of all errors only SetPtr's can be raised; the host's load
of the selector is not restricted. -/
theorem noInstructionReachesMulOrDiv : Obligations.NoInstructionReachesMulOrDiv := by
  refine ⟨fun i s t h => ?_, fun i s h => ?_, fun s h => ?_, fun s hs => ?_⟩
  · by_cases hi : UsesAlu i
    · exact (exec_circuit hi h).imp_right .inl
    · exact .inr (.inr (exec_keeps_alu hi h).1)
  · obtain ⟨a, -, ha⟩ := exec_fault_address h
    cases ha
  · have hspec := (stepFaultsExactlyWhenTheSpecSays s .divisionByZero).mp h
    simp at hspec
  · rw [hostCall_idle _ hs, hostCall_idle _ hs]
    exact ⟨rfl, rfl⟩

end Sys2Proof.Machine
end

section
/-! Encoding (30_encoding.md): the opcode map, row by row (R96), and the round trip of a Word through its instruction
(R90, R91). -/

namespace Sys2Proof.Machine

open Sys2Proof.Spec

/-- Settles O2: the instruction a Word decodes to has the Word's two bytes, and a Word is its two bytes. -/
theorem encodeOfDecodeIsTheWord : Obligations.EncodeOfDecodeIsTheWord := by
  intro w i h
  obtain ⟨hop, hb⟩ := bytes_of_decode h
  exact ⟨by rw [encode, hop, hb, wordOf_split], instrTable_opcode i⟩

/-- Settles O4: each row's byte is its constructor's own opcode. -/
theorem opcodeMapIsTheSpecsTable : Obligations.OpcodeMapIsTheSpecsTable := by
  unfold Obligations.OpcodeMapIsTheSpecsTable
  and_intros
  all_goals exact encodes_of_opcode (fun _ => rfl) (fun _ => rfl)

/-- Settles O5: the Words are closed terms, which the decoder is run on. -/
theorem wordsOfTheSpecDecode : Obligations.WordsOfTheSpecDecode := by
  unfold Obligations.WordsOfTheSpecDecode
  and_intros
  all_goals decide

end Sys2Proof.Machine
end

section
/-! The circuits read as integer arithmetic: Add's overflow (40_alu.md R135), Sub's borrow (R137), Mul (R138 to R140) and
Div (R142, R143). -/

namespace Sys2Proof.Machine

open Sys2Proof.Spec

/-- The range of a Word's signed view (00_scope.md R6). -/
theorem toInt_range (w : Word) : -32768 ≤ w.toInt ∧ w.toInt ≤ 32767 := by
  have hlow := w.le_toInt
  have hhigh := w.toInt_lt
  omega

/-! ### Add -/

/-- R135: operands of one sign whose sum leaves i16 are all the operands whose sum does. -/
theorem addOverflows_iff_doesNotFit (x y : Word) : AddOverflows x y ↔ DoesNotFit (x.toInt + y.toInt) := by
  have hx := toInt_range x
  have hy := toInt_range y
  unfold AddOverflows DoesNotFit
  omega

/-- Operands of opposite sign never overflow. -/
theorem not_addOverflows_of_opposite_signs {x y : Word} (h : ¬ (0 ≤ x.toInt ↔ 0 ≤ y.toInt)) : ¬ AddOverflows x y := by
  unfold AddOverflows
  omega

/-- Settles O25: overflow by `addOverflow_iff`, read as the sum that does not fit. -/
theorem addOverflowsExactlyWhenTheSumDoesNotFit : Obligations.AddOverflowsExactlyWhenTheSumDoesNotFit := by
  refine fun x y => ⟨addCircuit x y, rfl, ?_, fun h => ?_⟩
  · exact (addOverflow_iff x y).trans (addOverflows_iff_doesNotFit x y)
  · exact Bool.eq_false_iff.mpr fun hv => not_addOverflows_of_opposite_signs h ((addOverflow_iff x y).mp hv)

/-! ### Sub -/

@[simp] theorem subCarry_iff (x y : Word) : Config.subCarry x y = true ↔ x.toNat < y.toNat := by simp [Config.subCarry]

theorem subCircuit_r_toInt (x y : Word) : ((subCircuit x y).r.toNat : Int) = (x.toInt - y.toInt) % 65536 :=
  trunc16_toNat _

/-- Subtracting the unsigned views gives the same Word as subtracting the signed ones. -/
theorem subCircuit_r_toNat (x y : Word) : ((subCircuit x y).r.toNat : Int) = ((x.toNat : Int) - y.toNat) % 65536 := by
  have hx := toInt_emod x
  have hy := toInt_emod y
  have h := subCircuit_r_toInt x y
  omega

/-- Settles O27: the unsigned difference is the result, less 65536 where the subtrahend is the greater. -/
theorem subCircuitCarryIsBorrow : Obligations.SubCircuitCarryIsBorrow := by
  refine fun x y => ⟨subCircuit x y, rfl, subCarry_iff x y, ?_⟩
  have hr := subCircuit_r_toNat x y
  have hx := x.isLt
  have hy := y.isLt
  have hc : (subCircuit x y).c = true ↔ x.toNat < y.toNat := subCarry_iff x y
  split
  next h =>
    have := hc.mp h
    omega
  next h =>
    have := mt hc.mpr h
    omega

/-! ### Mul -/

@[simp] theorem mulCarry_iff (x y : Word) : Config.mulCarry x y = true ↔ 65535 < x.toNat * y.toNat := by
  simp [Config.mulCarry]

/-- Multiplying the unsigned views gives the same Word as multiplying the signed ones. -/
theorem mulCircuit_r_toNat (x y : Word) : (mulCircuit x y).r.toNat = (x.toNat * y.toNat) % 65536 := by
  have h : ((mulCircuit x y).r.toNat : Int) = (x.toNat * y.toNat : Int) % 65536 :=
    calc ((mulCircuit x y).r.toNat : Int)
      _ = (x.toInt * y.toInt) % 65536 := trunc16_toNat _
      _ = (x.toNat * y.toNat : Int) % 65536 := by
        rw [Int.mul_emod, toInt_emod, toInt_emod, ← Int.mul_emod]
  exact_mod_cast h

/-- Settles O28: the result by its two readings, carry and overflow by what the markers say. -/
theorem mulCircuitResultCarryOverflow : Obligations.MulCircuitResultCarryOverflow := fun x y =>
  ⟨mulCircuit x y, rfl, trunc16_toNat _, mulCircuit_r_toNat x y, mulCarry_iff x y, outsideI16_iff _⟩

/-! ### Div -/

/-- The quotient rounded toward zero is not negative where the signs agree. -/
theorem tdiv_nonneg_of_same_sign {x y : Int} (h : 0 ≤ x ↔ 0 ≤ y) : 0 ≤ x.tdiv y := by
  by_cases hx : 0 ≤ x
  · exact Int.tdiv_nonneg hx (h.mp hx)
  · exact Int.tdiv_nonneg_of_nonpos_of_nonpos (by omega) (by omega)

/-- The quotient rounded toward zero is not positive where the signs differ. -/
theorem tdiv_nonpos_of_opposite_signs {x y : Int} (h : ¬ (0 ≤ x ↔ 0 ≤ y)) : x.tdiv y ≤ 0 := by
  by_cases hx : 0 ≤ x
  · exact Int.tdiv_nonpos_of_nonneg_of_nonpos hx (by omega)
  · have hneg : 0 ≤ (-x).tdiv y := Int.tdiv_nonneg (by omega) (by omega)
    rw [Int.neg_tdiv] at hneg
    omega

/-- The one quotient of Words that leaves i16: the divisor can only shrink the dividend, so it is -1 and the dividend
-32768. -/
theorem tdiv_doesNotFit_iff (x y : Word) : DoesNotFit (x.toInt.tdiv y.toInt) ↔ x.toInt = -32768 ∧ y.toInt = -1 := by
  have hx := toInt_range x
  constructor
  · intro h
    have habs : (x.toInt.tdiv y.toInt).natAbs = x.toInt.natAbs / y.toInt.natAbs := Int.natAbs_tdiv _ _
    have hle : x.toInt.natAbs / y.toInt.natAbs ≤ x.toInt.natAbs := Nat.div_le_self _ _
    have hquot : x.toInt.tdiv y.toInt = 32768 := by
      unfold DoesNotFit at h
      omega
    have hsame : 0 ≤ x.toInt ↔ 0 ≤ y.toInt := by
      by_contra hne
      have := tdiv_nonpos_of_opposite_signs hne
      omega
    have hy : y.toInt.natAbs < 2 := by
      by_contra hge
      have hhalf : x.toInt.natAbs / y.toInt.natAbs ≤ x.toInt.natAbs / 2 :=
        Nat.div_le_div_left (Nat.le_of_not_lt hge) Nat.zero_lt_two
      omega
    have hy0 : y.toInt ≠ 0 := by
      intro hy0
      rw [hy0, Int.tdiv_zero] at hquot
      cases hquot
    omega
  · rintro ⟨hx', hy'⟩
    rw [hx', hy']
    exact .inr (by decide)

/-- Settles O30: the quotient is `Int.tdiv`'s, and it leaves i16 in one case. -/
theorem divCircuitQuotientOverflow : Obligations.DivCircuitQuotientOverflow := by
  intro x y hy
  have hy0 : y ≠ 0x0000#16 := fun h => hy (by rw [h]; rfl)
  have hv : (divCircuit x y).v = true ↔ DoesNotFit (x.toInt.tdiv y.toInt) := outsideI16_iff _
  refine ⟨divCircuit x y, x.toInt.tdiv y.toInt, if_neg hy0, Int.natAbs_tdiv _ _, tdiv_nonneg_of_same_sign,
    tdiv_nonpos_of_opposite_signs, trunc16_toNat _, rfl, hv, ?_⟩
  rw [hv, tdiv_doesNotFit_iff, ← BitVec.toInt_inj, ← BitVec.toInt_inj]
  rfl

end Sys2Proof.Machine
end

section
/-! SUB and COMPARE (42_arithmetic.md R197 to R208), and what the branches say of the operands after a COMPARE
(44_control.md R252). -/

namespace Sys2Proof.Machine

open Sys2Proof.Spec

/-! ### The twelve forms -/

/-- A state that holds the latches, the result and the flags of the Sub circuit on x and y is what R136 and R137 ask. -/
theorem subDone_of_subCircuit {x y : Word} {t : State} (ha : t.alu = ⟨x, y, .sub, (subCircuit x y).r⟩)
    (hp : t.psr = flagsOf (subCircuit x y)) : SubDone x y t := by
  have hz : t.alu.z = (subCircuit x y).r := congrArg Alu.z ha
  refine ⟨congrArg Alu.x ha, congrArg Alu.y ha, congrArg Alu.circuit ha, ?_, ?_, ?_, zeroAndNegative_of_flagsOf hz hp⟩
  · rw [hz, subCircuit_r_toInt]
  · rw [hp]
    exact subCarry_iff x y
  · rw [hp]
    exact outsideI16_iff _

/-- SUB of any source from any register completes: the difference is in the register, and beside it only the ALU, the
flags and what the source's memory step writes have changed (42_arithmetic.md R190). -/
theorem computeInto_sub_done (r : Gpr) (src : Source) (s : State) :
    ∃ t, computeInto .sub r src s = .next t ∧ SubDone (s.gpr r) (sourceWord src r s) t ∧
      t = (((afterSource src s).withAlu t.alu).withPsr t.psr).withGpr r t.alu.z := by
  refine ⟨_, computeInto_sub s r src, subDone_of_subCircuit ?_ ?_, ?_⟩ <;> simp

/-- COMPARE of any source with any register completes: only the ALU, the flags and what the source's memory step writes
have changed. -/
theorem compareWith_done (r : Gpr) (src : Source) (s : State) :
    ∃ t, compareWith r src s = .next t ∧ SubDone (s.gpr r) (sourceWord src r s) t ∧
      t = ((afterSource src s).withAlu t.alu).withPsr t.psr := by
  refine ⟨_, compareWith_eq r src s, subDone_of_subCircuit ?_ ?_, ?_⟩ <;> simp

/-- Settles O32: each form is the pipeline at its destination and source, and its opcode is the constructor's own. -/
theorem subFormsSubtractAndWriteAllFlags : Obligations.SubFormsSubtractAndWriteAllFlags := by
  refine ⟨⟨?_, ?_, ?_, ?_, ?_, ?_⟩, fun s b => ⟨?_, ?_, ?_, ?_, ?_, ?_⟩⟩
  iterate 6 exact encodes_of_opcode (fun _ => rfl) (fun _ => rfl)
  · exact computeInto_sub_done .a (.immediate b) s
  · exact computeInto_sub_done .b (.immediate b) s
  · exact computeInto_sub_done .a (.direct b) s
  · exact computeInto_sub_done .b (.direct b) s
  · exact computeInto_sub_done .a .register s
  · exact computeInto_sub_done .b .register s

/-- Settles O33: each form is the pipeline at its register and source, and its opcode is the constructor's own. -/
theorem compareFormsWriteFlagsAndNoRegister : Obligations.CompareFormsWriteFlagsAndNoRegister := by
  refine ⟨⟨?_, ?_, ?_, ?_, ?_, ?_⟩, fun s b => ⟨?_, ?_, ?_, ?_, ?_, ?_⟩⟩
  iterate 6 exact encodes_of_opcode (fun _ => rfl) (fun _ => rfl)
  · exact compareWith_done .a (.immediate b) s
  · exact compareWith_done .b (.immediate b) s
  · exact compareWith_done .a (.direct b) s
  · exact compareWith_done .b (.direct b) s
  · exact compareWith_done .a .register s
  · exact compareWith_done .b .register s

/-! ### The flags of a difference -/

section
variable {x y : Word} {t : State}

/-- Z is the difference of the two Words. -/
theorem subDone_z (h : SubDone x y t) : t.alu.z = x - y := by
  obtain ⟨-, -, -, hz, -⟩ := h
  have hx := toInt_emod x
  have hy := toInt_emod y
  have hylt := y.isLt
  apply BitVec.eq_of_toNat_eq
  rw [BitVec.toNat_sub]
  omega

/-- Zero says that the Words are equal. -/
theorem subDone_zero_iff (h : SubDone x y t) : t.psr.z = true ↔ x = y := by
  have hz := subDone_z h
  obtain ⟨-, -, -, -, -, -, hzero, -⟩ := h
  rw [hzero, hz]
  rw [← sub_eq_zero (a := x), ← BitVec.toNat_inj]
  rfl

/-- Negative is bit 15 of the difference. -/
theorem subDone_negative_iff (h : SubDone x y t) : t.psr.n = true ↔ (x - y).msb = true := by
  have hz := subDone_z h
  obtain ⟨-, -, -, -, -, -, -, hneg⟩ := h
  rw [hneg, hz, BitVec.msb_eq_getLsbD_last]

/-- N differs from V exactly where the first Word is the lesser, read as signed (44_control.md R252). -/
theorem subDone_negative_ne_overflow_iff (h : SubDone x y t) : t.psr.n ≠ t.psr.v ↔ x.toInt < y.toInt := by
  have hx := toInt_range x
  have hy := toInt_range y
  obtain ⟨-, -, -, hz, -, hv, -, hneg⟩ := h
  have hn : t.psr.n = true ↔ 32768 ≤ t.alu.z.toNat := by
    rw [hneg, ← BitVec.msb_eq_getLsbD_last, BitVec.msb_eq_decide, decide_eq_true_iff]
  rw [ne_eq, Bool.eq_iff_iff, hn, hv]
  unfold DoesNotFit
  omega

end

/-- Settles O34: each branch tests its flag, and each flag of COMPARE's difference its relation. -/
theorem compareThenBranchTestsTheRelation : Obligations.CompareThenBranchTestsTheRelation := by
  intro s b d
  obtain ⟨t, ht, hdone, -⟩ := compareWith_done .a .register s
  have hzero : t.psr.z = true ↔ s.gpa = s.gpb := subDone_zero_iff hdone
  have hnegative : t.psr.n = true ↔ (s.gpa - s.gpb).msb = true := subDone_negative_iff hdone
  have hsigned : t.psr.n ≠ t.psr.v ↔ s.gpa.toInt < s.gpb.toInt := subDone_negative_ne_overflow_iff hdone
  obtain ⟨-, -, -, -, hcarry, hoverflow, -⟩ := hdone
  obtain ⟨hbcs, hbcc, hbns, -, hbzs, hbzc, hbvs, -⟩ := branchesTestOneFlag.2 t d
  refine ⟨t, ht, fun h => ?_, fun h => ?_, fun h => ?_, fun h => ?_, fun h => ?_, fun h => ?_, hsigned⟩
  · have hflag := hzero.mpr h
    exact ⟨by simp [hbzs, hflag], by simp [hbzc, hflag]⟩
  · have hflag := Bool.eq_false_iff.mpr (mt hzero.mp h)
    exact ⟨by simp [hbzs, hflag], by simp [hbzc, hflag]⟩
  · have hflag := hcarry.mpr h
    exact ⟨by simp [hbcs, hflag], by simp [hbcc, hflag]⟩
  · have hflag := Bool.eq_false_iff.mpr (mt hcarry.mp (Nat.not_lt.mpr h))
    exact ⟨by simp [hbcs, hflag], by simp [hbcc, hflag]⟩
  · rw [hbns, if_pos (hnegative.mpr h)]
  · rw [hbvs, if_pos (hoverflow.mpr h)]

end Sys2Proof.Machine
end

section
/-! Rules about the whole machine: HALT and JMP to a Word of memory (44_control.md R242, R251), PC between instructions
(10_state.md R24, R25), a store that the next Fetch reads (20_memory.md R76), and the hidden state (10_state.md R42). -/

namespace Sys2Proof.Machine

open Sys2Proof.Spec

variable {s t : State} {i : Instr}

/-! ### JMP a and HALT -/

/-- Settles O39: the slot is read and copied into PC whole, and a Fetch there is one at an address that is no slot. -/
theorem jmpDirectWritesTheWordIntoPc : Obligations.JmpDirectWritesTheWordIntoPc := by
  refine ⟨encodes_of_opcode (fun _ => rfl) (fun _ => rfl), fun s b => ⟨?_, fun hs hpc => ?_⟩⟩
  · rw [exec_jmpDir, readInto_direct]
    rfl
  · exact fetchCommand_beyond (s := { directRead b s with pc := Memory.read s.mem b.toNat }) hs hpc

/-- Settles O41: Execute of a HALT is a no-op, and the loop's test comes before it. -/
theorem haltMovesNoData : Obligations.HaltMovesNoData := by
  refine ⟨encodes_of_opcode (fun _ => rfl) (fun _ => rfl), fun s b => exec_halt b s, fun s b hs hir => ?_,
    fun s t cancels hs h hop => ?_⟩
  · exact executeCommand_halt hs (by rw [hir, opcodeOf_wordOf])
  · rw [runCommand_idle _ hs, runLoop_false, h]
    exact if_pos hop

/-! ### PC -/

/-- Every instruction but JMP a keeps PC or writes its operand byte there. -/
theorem exec_pc (hi : i.opcode ≠ 0x1C#8) (h : exec i s = .next t) :
    t.pc = s.pc ∨ (MayWritePc i ∧ t.pc = i.operand.setWidth 16) := by
  by_cases hpc : MayWritePc i
  · cases i
    case jmpDir => exact absurd rfl hi
    case jmpImm =>
      cases h
      exact .inr ⟨hpc, rfl⟩
    case bcs | bcc | bns | bnc | bzs | bzc | bvs | bvc =>
      obtain rfl | rfl := branchIf_next h
      · exact .inr ⟨hpc, rfl⟩
      · exact .inl rfl
    all_goals simp [MayWritePc, Instr.opcode] at hpc
  · exact .inl (exec_keeps_pc hpc h)

/-- A step leaves in IR the Word of the instruction it ran. -/
theorem bytes_of_ir_after_exec {h : SlotIndex} {p : Phase} (hi : decode (Memory.read s.mem h) = .ok i)
    (hexec : exec i (fetchedAndDecoded p h s) = .next t) : opcodeOf t.ir = i.opcode ∧ operandOf t.ir = i.operand := by
  obtain ⟨hop, hb⟩ := bytes_of_decode hi
  rw [(exec_keeps_engine hexec).1]
  exact ⟨hop.symm, hb.symm⟩

/-- Settles O48: Fetch leaves the incremented PC, which the instruction keeps or replaces with its operand byte. -/
theorem pcStaysInRangeButForJmpDirect : Obligations.PcStaysInRangeButForJmpDirect := by
  intro s t hlt hstep hnot
  obtain ⟨h, i, u, -, -, hi, hexec, rfl⟩ := step_next hstep
  obtain ⟨hop, hb⟩ := bytes_of_ir_after_exec hi hexec
  simp only [State.withPhase_ir, State.withPhase_pc, hop, hb] at hnot ⊢
  rcases exec_pc hnot hexec with hpc | ⟨⟨hlow, hhigh⟩, hpc⟩
  · have hfall : u.pc = BitVec.ofNat 16 ((s.pc.toNat + 1) % 256) := hpc
    refine ⟨?_, .inl hfall⟩
    rw [hfall, BitVec.toNat_ofNat]
    omega
  · rw [hpc, setWidth_toNat]
    exact ⟨i.operand.isLt, .inr ⟨hlow, hhigh, rfl⟩⟩

/-- Settles O49: PC.write is the update of PC, and at a PC that is no slot index Fetch, the step and the run raise. -/
theorem aBadPcIsStoredAndSticks : Obligations.ABadPcIsStoredAndSticks := by
  intro s w hs
  refine ⟨s.withPc w, hostCall_idle _ hs, rfl, fun hw => ?_⟩
  have hstep : stepCommand (s.withPc w) = (s.withPc w, .error (.addressOutOfRange w.toNat)) :=
    stepCommand_beyond (s := s.withPc w) hs hw
  exact ⟨fetchCommand_beyond (s := s.withPc w) hs hw, hstep, fun cancels => runEndsAtTheFirstError _ _ _ _ hs hstep⟩

/-! ### A store into the slot PC points at -/

/-- The Fetch after a store into PC's slot reads the Word stored; IR still holds what it held. -/
theorem fetch_reads_stored_word {p : SlotIndex} {w : Word} (hm : Memory.wf s.mem = true) (hs : s.phase = .idle)
    (hpc : PcAt s p) (hstore : storeOf i s = some (p.val, w)) (hi : ¬ MayWritePc i) (h : exec i s = .next t) :
    t.ir = s.ir ∧ (fetchCommand t).2 = .done ∧ (fetchCommand t).1.mdr = w := by
  obtain ⟨hir, hphase, -⟩ := exec_keeps_engine h
  obtain ⟨-, hslot, -⟩ := (eachInstructionsMemoryFrame i s t hm h).2 _ _ hstore
  have hpct : PcAt t p := by rw [PcAt, exec_keeps_pc hi h, hpc]
  rw [fetchCommand_slot (hphase.trans hs) hpct]
  exact ⟨hir, rfl, hslot⟩

/-- Settles O50: the four stores complete, each into the slot PC names. -/
theorem storesAreSeenByTheNextFetch : Obligations.StoresAreSeenByTheNextFetch := by
  intro s b hm hs
  refine ⟨fun hpc => ?_, fun hpc hlt => ?_⟩
  · have hat : PcAt s (slotOf b) := by rw [PcAt, hpc, setWidth_toNat, slotOf_val]
    refine ⟨⟨_, storeReg_direct b .a s, ?_⟩, ⟨_, storeReg_direct b .b s, ?_⟩⟩
    · exact fetch_reads_stored_word (i := .moveAToDir b) hm hs hat rfl (by simp [MayWritePc, Instr.opcode])
        (storeReg_direct b .a s)
    · exact fetch_reads_stored_word (i := .moveBToDir b) hm hs hat rfl (by simp [MayWritePc, Instr.opcode])
        (storeReg_direct b .b s)
  · have hat : PcAt s ⟨s.pc.toNat, hlt⟩ := rfl
    have hptr : (Memory.read s.mem b.toNat).toNat = (⟨s.pc.toNat, hlt⟩ : SlotIndex).val :=
      congrArg BitVec.toNat hpc.symm
    refine ⟨⟨_, storeIndirect_slot hptr .a, ?_⟩, ⟨_, storeIndirect_slot hptr .b, ?_⟩⟩
    · exact fetch_reads_stored_word (i := .moveAToInd b) hm hs hat (by rw [storeOf, hptr])
        (by simp [MayWritePc, Instr.opcode]) (storeIndirect_slot hptr .a)
    · exact fetch_reads_stored_word (i := .moveBToInd b) hm hs hat (by rw [storeOf, hptr])
        (by simp [MayWritePc, Instr.opcode]) (storeIndirect_slot hptr .b)

/-! ### The hidden state -/

theorem branchIf_withAlu (g : Bool) (b : Byte) (s : State) (a : Alu) :
    branchIf g b (s.withAlu a) = andThen (branchIf g b s) fun u => .next (u.withAlu a) := by
  cases g <;> rfl

theorem storeIndirect_withAlu (b : Byte) (r : Gpr) (s : State) (a : Alu) :
    storeIndirect b r (s.withAlu a) = andThen (storeIndirect b r s) fun u => .next (u.withAlu a) := by
  rcases slot_or_beyond (Memory.read s.mem b.toNat) with ⟨p, hp⟩ | hp
  · rw [storeIndirect_slot hp, storeIndirect_slot (s := s.withAlu a) hp, State.gpr_withAlu]
    rfl
  · rw [storeIndirect_beyond hp, storeIndirect_beyond (s := s.withAlu a) hp]
    rfl

/-- What an instruction does depends on the ALU's latches in nothing but the latches themselves: ADD, SUB and COMPARE
load them before they compute. -/
theorem exec_withAlu (i : Instr) (s : State) (a : Alu) :
    ∃ a', exec i (s.withAlu a) = andThen (exec i s) fun u => .next (u.withAlu a') := by
  cases i
  case moveAToInd | moveBToInd => exact ⟨a, storeIndirect_withAlu _ _ s a⟩
  case bcs | bcc | bns | bnc | bzs | bzc | bvs | bvc => exact ⟨a, branchIf_withAlu _ _ s a⟩
  case halt | jmpImm | moveImmA | moveImmB => exact ⟨a, rfl⟩
  all_goals
    simp [compareWith_eq]
    exact ⟨_, rfl⟩

/-- Of two states a program cannot tell apart, Fetch and Decode leave states that differ in the ALU's latches alone. -/
theorem fetchedAndDecoded_sameVisible (p : Phase) (h : SlotIndex) (hvis : s.SameVisible t) :
    fetchedAndDecoded p h t = (fetchedAndDecoded p h s).withAlu t.alu := by
  obtain ⟨hpc, hgpa, hgpb, hpsr, hmem, -⟩ := hvis
  simp only [fetchedAndDecoded, State.withAlu, hpc, hgpa, hgpb, hpsr, hmem]

/-- Settles O45: a step that completes by `exec_withAlu` on what Fetch and Decode leave, a step that raises because the
rule for when it does names visible state only. -/
theorem hiddenStateNeverReachesAProgram : Obligations.HiddenStateNeverReachesAProgram := by
  intro s t hvis
  have hfetched (h : SlotIndex) := fetchedAndDecoded_sameVisible .executing h hvis
  obtain ⟨hpc, -, -, -, hmem, hphase⟩ := hvis
  refine ⟨fun s' hs' => ?_, fun f hf => ?_⟩
  · obtain ⟨h, i, u, hs, hat, hi, hexec, rfl⟩ := step_next hs'
    obtain ⟨a, ha⟩ := exec_withAlu i (fetchedAndDecoded .executing h s) t.alu
    have hstep : step t = .next ((u.withAlu a).withPhase .idle) := by
      rw [step_decoded (hphase ▸ hs) ((congrArg BitVec.toNat hpc).symm.trans hat) (hmem ▸ hi), hfetched, ha, hexec]
      rfl
    exact ⟨_, hstep, ⟨rfl, rfl, rfl, rfl, rfl, rfl⟩, rfl, rfl⟩
  · rw [stepFaultsExactlyWhenTheSpecSays s f, hphase, hpc, hmem] at hf
    exact (stepFaultsExactlyWhenTheSpecSays t f).mpr hf

end Sys2Proof.Machine
end

section
/-! The host interface: memory by address and the pointer (20_memory.md R62, R63), reset and the loader
(70_reset_and_hazards.md R290, R293), the packed flags (10_state.md R33) and the text of a Word (00_scope.md R8). -/

namespace Sys2Proof.Machine

/-! ### Memory, pointer and reset -/

/-- Settles O53: below 256 a read of the slot and a write of it, from 256 on the bounds check of each. -/
theorem hostMemoryReadAndWrite : Obligations.HostMemoryReadAndWrite := by
  refine fun s a w hs hm => ⟨fun ha => ?_, fun ha => ?_⟩
  · refine ⟨?_, s.withMem (Memory.write s.mem a w), ?_, Memory.write_wf hm ha w, rfl, Memory.read_write hm a w⟩
    · exact (hostCall_idle _ hs).trans (if_pos ha)
    · exact (hostCall_idle _ hs).trans (if_pos ha)
  · have hbound : ¬ a < Config.memSlots := Nat.not_lt.mpr ha
    exact ⟨(hostCall_idle _ hs).trans (if_neg hbound), (hostCall_idle _ hs).trans (if_neg hbound)⟩

/-- Settles O54: set_pointer's two cases, for the host's argument and for MAR. -/
theorem setPointerChecksItsBound : Obligations.SetPointerChecksItsBound := by
  refine fun s a hs => ⟨fun ha => ?_, ?_, fun hmar => setPointer_beyond hmar s, fun p hmar => ?_⟩
  · rw [hostCall_idle _ hs, idleCall, setPointer_beyond ha]
    rfl
  · rintro p rfl
    rw [hostCall_idle _ hs, idleCall, setPointer_slot]
    rfl
  · rw [setPtrFromMar, hmar, setPointer_slot]
    rfl

/-- Settles O57: reset answers RESET_STATE, whose fields are R43's. -/
theorem resetLeavesTheStateOfR43 : Obligations.ResetLeavesTheStateOfR43 := by
  intro s
  refine ⟨fun hs => if_neg hs, fun hs => ⟨State.reset, hostCall_idle _ hs, rfl, ?_⟩⟩
  and_intros <;> rfl

/-! ### The loader -/

/-- The memory with the Words written in ascending slots from the given one. -/
def writeWords : List Word → Nat → Memory → Memory
  | [], _, m => m
  | w :: ws, slot, m => writeWords ws (slot + 1) (Memory.write m slot w)

/-- Slots outside the Words written keep their contents. -/
theorem read_writeWords_outside (ws : List Word) {slot a : Nat} {m : Memory} (hm : Memory.wf m = true)
    (hfit : slot + ws.length ≤ 256) (ha : a < slot ∨ slot + ws.length ≤ a) :
    Memory.read (writeWords ws slot m) a = Memory.read m a := by
  induction ws generalizing slot m with
  | nil => rfl
  | cons w ws ih =>
    rw [List.length_cons] at hfit ha
    have hwf : Memory.wf (Memory.write m slot w) = true := Memory.write_wf hm (by omega) w
    rw [writeWords, ih hwf (by omega) (by omega), Memory.read_write hm, if_neg (by omega)]

/-- Each Word written is found in its slot. -/
theorem read_writeWords_inside (ws : List Word) {slot : Nat} {m : Memory} (hm : Memory.wf m = true)
    (hfit : slot + ws.length ≤ 256) (k : Nat) (hk : k < ws.length) :
    Memory.read (writeWords ws slot m) (slot + k) = ws[k] := by
  induction ws generalizing slot m k with
  | nil => cases hk
  | cons w ws ih =>
    rw [List.length_cons] at hfit
    have hwf : Memory.wf (Memory.write m slot w) = true := Memory.write_wf hm (by omega) w
    rw [writeWords]
    cases k with
    | zero =>
      rw [read_writeWords_outside ws hwf (by omega) (by omega), Memory.read_write hm]
      exact if_pos rfl
    | succ k =>
      rw [show slot + (k + 1) = slot + 1 + k by omega]
      exact ih hwf (by omega) k (Nat.lt_of_succ_lt_succ hk)

/-- A write of the loader to a slot, and the writes after it. -/
theorem loadWords_cons_slot {w : Word} {ws : List Word} {slot : Nat} {s : State} (hs : s.phase = .idle)
    (hslot : slot < 256) :
    loadWords (w :: ws) slot s = loadWords ws (slot + 1) (s.withMem (Memory.write s.mem slot w)) := by
  have hwrite : hostCall (.memWrite slot w) s = (s.withMem (Memory.write s.mem slot w), .done) :=
    (hostCall_idle _ hs).trans (if_pos hslot)
  rw [loadWords, hwrite]

/-- A write of the loader past the last slot ends the load. -/
theorem loadWords_cons_beyond {w : Word} {ws : List Word} {slot : Nat} {s : State} (hs : s.phase = .idle)
    (hslot : 256 ≤ slot) : loadWords (w :: ws) slot s = (s, .error (.addressOutOfRange slot)) := by
  have hwrite : hostCall (.memWrite slot w) s = (s, .error (.addressOutOfRange slot)) :=
    (hostCall_idle _ hs).trans (if_neg (Nat.not_lt.mpr hslot))
  rw [loadWords, hwrite]

/-- Words that fit are all written, and nothing but memory changes. -/
theorem loadWords_fits (ws : List Word) {slot : Nat} {s : State} (hs : s.phase = .idle)
    (hfit : slot + ws.length ≤ 256) :
    loadWords ws slot s = (s.withMem (writeWords ws slot s.mem), .done) := by
  induction ws generalizing slot s with
  | nil => rfl
  | cons w ws ih =>
    rw [List.length_cons] at hfit
    rw [loadWords_cons_slot hs (by omega)]
    exact ih (s := s.withMem (Memory.write s.mem slot w)) hs (by omega)

/-- Words that do not fit fail at slot 256, and PC is not written. -/
theorem loadWords_too_long (ws : List Word) {slot : Nat} {s : State} (hs : s.phase = .idle) (hslot : slot ≤ 256)
    (hlong : 256 < slot + ws.length) :
    ∃ t, loadWords ws slot s = (t, .error (.addressOutOfRange 256)) ∧ t.pc = s.pc := by
  induction ws generalizing slot s with
  | nil =>
    rw [List.length_nil] at hlong
    omega
  | cons w ws ih =>
    rw [List.length_cons] at hlong
    rcases Nat.lt_or_eq_of_le hslot with hlt | rfl
    · rw [loadWords_cons_slot hs hlt]
      exact ih (s := s.withMem _) hs hlt (by omega)
    · exact ⟨s, loadWords_cons_beyond hs (Nat.le_refl _), rfl⟩

/-- While a cycle is in flight the loader answers Busy, also where it has no Word to write (log 9). -/
theorem load_busy (p : Program) {s : State} (hs : s.phase ≠ .idle) : load p s = (s, .error .busy) := by
  have hbusy (c : HostCall) : hostCall c s = (s, .error .busy) := if_neg hs
  cases hws : p.words with
  | nil => simp [load, hws, loadWords, hbusy]
  | cons w ws => simp [load, hws, loadWords, hbusy]

/-- Settles O58: the writes by induction on the Words, then PC; the bound is met at slot 256 or not at all. -/
theorem loadPlacesTheProgramAndSetsPc : Obligations.LoadPlacesTheProgramAndSetsPc := by
  intro p s hm base
  refine ⟨fun hs hfit => ?_, fun hs hlong => ?_, load_busy p⟩
  · refine ⟨(s.withMem (writeWords p.words base s.mem)).withPc ((operandOf p.org).setWidth 16), ?_, rfl, ?_, ?_⟩
    · have hwords : loadWords p.words (Config.loadBase p.org).toNat s = _ := loadWords_fits p.words hs hfit
      rw [load, hwords]
      exact hostCall_idle (s := s.withMem _) _ hs
    · exact read_writeWords_inside p.words hm hfit
    · exact fun a => read_writeWords_outside p.words hm hfit
  · have hbase : base ≤ 256 := Nat.le_of_lt (operandOf p.org).isLt
    obtain ⟨t, hwords, hpc⟩ := loadWords_too_long p.words hs hbase hlong
    have hwords : loadWords p.words (Config.loadBase p.org).toNat s = _ := hwords
    refine ⟨t, ?_, hpc⟩
    rw [load, hwords]

/-! ### Views -/

/-- Settles O59: each of the sixteen settings of the flags is packed and read bit by bit. -/
theorem packedFlagsOrder : Obligations.PackedFlagsOrder := by
  rintro ⟨c, z, n, v⟩
  revert c z n v
  decide

/-- Each of the sixteen digits is read back. -/
theorem hexValue_hexDigit : ∀ n : BitVec 4, hexValue (hexDigit n) = some n := by decide

/-- A Word is its four digits. -/
theorem digits_append (w : Word) :
    w.extractLsb' 12 4 ++ w.extractLsb' 8 4 ++ w.extractLsb' 4 4 ++ w.extractLsb' 0 4 = w := by
  rw [BitVec.extractLsb'_append_extractLsb'_eq_extractLsb' (start₁ := 8) (len₁ := 4) rfl,
    BitVec.extractLsb'_append_extractLsb'_eq_extractLsb' (start₁ := 4) (len₁ := 4) rfl,
    BitVec.extractLsb'_append_extractLsb'_eq_extractLsb' (start₁ := 0) (len₁ := 4) rfl]
  exact BitVec.extractLsb'_eq_self

/-- Settles O60: digit by digit, and a Word is its digits. -/
theorem hexTextReadsBack : Obligations.HexTextReadsBack := by
  intro w
  refine ⟨?_, rfl⟩
  simp only [toHexString, fromHexString, hexValue_hexDigit]
  exact congrArg _ (digits_append w)

end Sys2Proof.Machine
end
